-- ==== Sys2Proof/Word.lean ====
section
/-!
DEFINITION. The two word types of ZKTV-CORE: a 32-bit control or command word (10_state.md R34, 30_encoding.md R90), and a
2048-bit value (00_scope.md R10, R14).
-/

namespace Sys2Proof

/-- A word of the `CTRL` space: a command word or a control register (10_state.md R34). -/
abbrev Word := BitVec 32

/-- A value, by the number it stands for: `val` and `limbs` of 00_scope.md R14 are bijections between W-limb values and
`[0, 2^N)` with N = 2048, so the number and the limb vector are the same data; `limbs` in Machine/Limb.lean is the limb view.
DESIGN CHOICE (log entry 2): stored by its number. Safe: nothing is lost or gained. -/
abbrev Value := BitVec 2048

end Sys2Proof
end

