-- ==== Sys2Proof/Syntax.lean ====
section
/-!
DEFINITION. The commands of ZKTV-CORE as syntax: one constructor per row of spec/opcode_table.json (30_encoding.md R95).
-/

namespace Sys2Proof

/-- A register field of a command word: an unsigned 4-bit number (30_encoding.md R92). Only 0 to 7 name a register; that is
`Instr.wellFormed`'s check. -/
abbrev RegField := BitVec 4

/-- The five opcodes (30_encoding.md R95), as the engine's `op` latch holds them (10_state.md R42). -/
inductive Opcode where
  | zero | sub | mul | mulmod | rsav
  deriving DecidableEq, Repr, Inhabited

/-- A command with the register fields it uses (30_encoding.md R94, R95, R99). -/
inductive Instr where
  /-- `zero vD` (41_limb_vector.md R120). -/
  | zero (rd : RegField)
  /-- `sub vD, vA, vB` (42_subtractor.md R140). -/
  | sub (rd ra rb : RegField)
  /-- `mul vD, vA, vB` (43_multiplier.md R160). -/
  | mul (rd ra rb : RegField)
  /-- `mulmod vD, vA, vB, vM` (44_reducer.md R180). -/
  | mulmod (rd ra rb rm : RegField)
  /-- `rsav vD, vMsg, vSig, vMod` (45_rsa.md R200). -/
  | rsav (rd ra rb rm : RegField)
  deriving DecidableEq, Repr

/-- The opcode of a command. -/
def Instr.opcode : Instr → Opcode
  | .zero _ => .zero
  | .sub _ _ _ => .sub
  | .mul _ _ _ => .mul
  | .mulmod _ _ _ _ => .mulmod
  | .rsav _ _ _ _ => .rsav

/-- The destination field `RD`, which every command uses. -/
def Instr.rd : Instr → RegField
  | .zero d => d
  | .sub d _ _ => d
  | .mul d _ _ => d
  | .mulmod d _ _ _ => d
  | .rsav d _ _ _ => d

/-- The field `RA`, where the command uses it (30_encoding.md R94). -/
def Instr.ra : Instr → Option RegField
  | .zero _ => none
  | .sub _ a _ => some a
  | .mul _ a _ => some a
  | .mulmod _ a _ _ => some a
  | .rsav _ a _ _ => some a

/-- The field `RB`, where the command uses it (30_encoding.md R94). -/
def Instr.rb : Instr → Option RegField
  | .zero _ => none
  | .sub _ _ b => some b
  | .mul _ _ b => some b
  | .mulmod _ _ b _ => some b
  | .rsav _ _ b _ => some b

/-- The field `RM`, where the command uses it (30_encoding.md R94). -/
def Instr.rm : Instr → Option RegField
  | .zero _ => none
  | .sub _ _ _ => none
  | .mul _ _ _ => none
  | .mulmod _ _ _ m => some m
  | .rsav _ _ _ m => some m

end Sys2Proof
end

