-- ==== Sys2Proof/WellFormed.lean ====
section
/-!
DEFINITION. Which commands are well formed: every register field a command uses names one of V0 to V7 (30_encoding.md R92, R97).
The other conditions of R97 (a known opcode, unused fields 0, RSVD 0) cannot be broken by syntax; Decode.lean checks them.
-/

namespace Sys2Proof

/-- A register field in range: 0 to 7 (30_encoding.md R92). -/
def regFieldOk (r : RegField) : Bool := decide (r.toNat < 8)

/-- An unused field has no register number to check. -/
def optFieldOk : Option RegField → Bool
  | none => true
  | some r => regFieldOk r

/-- Every register field the command uses is in range (30_encoding.md R97). -/
def Instr.wellFormed (i : Instr) : Bool :=
  regFieldOk i.rd && optFieldOk i.ra && optFieldOk i.rb && optFieldOk i.rm

/-- `Instr.wellFormed` as a proposition. -/
abbrev Instr.WellFormed (i : Instr) : Prop := i.wellFormed = true

end Sys2Proof
end

