-- ==== Sys2Proof/Decode.lean ====
section
/-!
DEFINITION. The command word: its fields (30_encoding.md R90), the decoder, the match and mask rows (R96), `legal` (R98), and
the encoder.
-/

namespace Sys2Proof

/-! ### Fields (30_encoding.md R90) -/

/-- `OPC`, bits 31 to 24. -/
def opcField (w : Word) : BitVec 8 := w.extractLsb' 24 8
/-- `RD`, bits 23 to 20. -/
def rdField (w : Word) : RegField := w.extractLsb' 20 4
/-- `RA`, bits 19 to 16. -/
def raField (w : Word) : RegField := w.extractLsb' 16 4
/-- `RB`, bits 15 to 12. -/
def rbField (w : Word) : RegField := w.extractLsb' 12 4
/-- `RM`, bits 11 to 8. -/
def rmField (w : Word) : RegField := w.extractLsb' 8 4
/-- `RSVD`, bits 7 to 0. -/
def rsvdField (w : Word) : BitVec 8 := w.extractLsb' 0 8

/-- The opcode values of 30_encoding.md R95. -/
def Opcode.code : Opcode → BitVec 8
  | .zero => 0x01
  | .sub => 0x02
  | .mul => 0x03
  | .mulmod => 0x04
  | .rsav => 0x05

/-- The opcode an `OPC` value stands for; every other value is unallocated (30_encoding.md R95). -/
def opcodeOf (c : BitVec 8) : Option Opcode :=
  if c = 0x01 then some .zero
  else if c = 0x02 then some .sub
  else if c = 0x03 then some .mul
  else if c = 0x04 then some .mulmod
  else if c = 0x05 then some .rsav
  else none

/-! ### Decoder -/

/-- Why a word is illegal: the four conditions of 30_encoding.md R97. All illegal words behave alike (R97). -/
inductive DecodeError where
  /-- `OPC` is not in the table of R95. -/
  | unknownOpcode
  /-- A used register field is 8 or more. -/
  | registerRange
  /-- A field the command does not use is not 0. -/
  | unusedField
  /-- `RSVD` is not 0. -/
  | reservedField
  deriving DecidableEq, Repr

/-- A candidate command, given whether the fields it does not use are all 0: its register fields are the last check. -/
def checkFields (unusedZero : Bool) (i : Instr) : Except DecodeError Instr :=
  if unusedZero then if i.wellFormed then .ok i else .error .registerRange else .error .unusedField

/-- The command a word encodes, or the reason it is illegal (30_encoding.md R91, R92, R94, R95, R97). Total on all words. -/
def decode (w : Word) : Except DecodeError Instr :=
  if rsvdField w ≠ 0 then .error .reservedField
  else match opcodeOf (opcField w) with
    | none => .error .unknownOpcode
    | some .zero => checkFields (raField w == 0 && rbField w == 0 && rmField w == 0) (.zero (rdField w))
    | some .sub => checkFields (rmField w == 0) (.sub (rdField w) (raField w) (rbField w))
    | some .mul => checkFields (rmField w == 0) (.mul (rdField w) (raField w) (rbField w))
    | some .mulmod => checkFields true (.mulmod (rdField w) (raField w) (rbField w) (rmField w))
    | some .rsav => checkFields true (.rsav (rdField w) (raField w) (rbField w) (rmField w))

/-! ### Match and mask rows -/

/-- One row of the opcode map (30_encoding.md R96). -/
structure OpcodeRow where
  opcode : Opcode
  matchBits : Word
  mask : Word
  deriving DecidableEq, Repr

/-- The five rows of 30_encoding.md R96. -/
def opcodeRows : List OpcodeRow :=
  [⟨.zero, 0x01000000, 0xFF8FFFFF⟩,
   ⟨.sub, 0x02000000, 0xFF888FFF⟩,
   ⟨.mul, 0x03000000, 0xFF888FFF⟩,
   ⟨.mulmod, 0x04000000, 0xFF8888FF⟩,
   ⟨.rsav, 0x05000000, 0xFF8888FF⟩]

/-- A row matches a word (30_encoding.md R96). -/
def OpcodeRow.hits (r : OpcodeRow) (w : Word) : Bool := (w &&& r.mask) == r.matchBits

/-- `legal(word)`, as 30_encoding.md R98's pseudocode states it over the rows. -/
def legal (w : Word) : Bool := opcodeRows.any fun r => r.hits w

/-! ### Encoder -/

/-- `word = OPC*2^24 + RD*2^20 + RA*2^16 + RB*2^12 + RM*2^8 + RSVD` (30_encoding.md R90). -/
def packFields (opc : BitVec 8) (rd ra rb rm : RegField) (rsvd : BitVec 8) : Word :=
  BitVec.ofNat 32 (2 ^ 24 * opc.toNat + 2 ^ 20 * rd.toNat + 2 ^ 16 * ra.toNat + 2 ^ 12 * rb.toNat + 2 ^ 8 * rm.toNat
    + rsvd.toNat)

/-- A register field, or 0 where the command does not use it (30_encoding.md R94). -/
def fieldBits (r : Option RegField) : RegField := r.getD 0

/-- The word of a command (30_encoding.md R90, R95, R99): unused fields and `RSVD` are 0. -/
def encode (i : Instr) : Word :=
  packFields i.opcode.code i.rd (fieldBits i.ra) (fieldBits i.rb) (fieldBits i.rm) 0

/-- The decoder on an opcode-table word of `nbits` bits. A command is one 32-bit word written whole to `CMD`
(30_encoding.md R90, R91), so no byte order enters (20_memory.md R69). -/
def decodeTableWord (nbits w : Nat) : Option Instr :=
  match decode (BitVec.ofNat 32 (w % 2 ^ nbits)) with
  | .ok i => some i
  | .error _ => none

end Sys2Proof
end

