-- ==== Sys2Proof/Config.lean ====
section
/-!
DEFINITION. What an instance of ZKTV-CORE fixes (00_scope.md R10), and the free values of the model.
-/

namespace Sys2Proof

/-- The limb width `LIMB_BITS`, the one parameter an instance chooses (00_scope.md R10, R11; decision D3). -/
inductive LimbWidth where
  | l32 | l64
  deriving DecidableEq, Repr, Inhabited

/-- `L`: bits per limb (00_scope.md R10). -/
def LimbWidth.bits : LimbWidth → Nat
  | .l32 => 32
  | .l64 => 64

/-- `W = N / L`: limbs per value (00_scope.md R10). -/
def LimbWidth.count : LimbWidth → Nat
  | .l32 => 64
  | .l64 => 32

namespace Config

/-- `N`: the width of every value in bits (00_scope.md R10). -/
abbrev valueBits : Nat := 2048

/-- `NREG`: the number of value registers (00_scope.md R10). -/
abbrev nreg : Nat := 8

/-- `E`: the RSA public exponent (00_scope.md R10; 45_rsa.md R210). -/
abbrev rsaExponent : Nat := 65537

/-- `SQUARINGS`: squaring rounds of `RSAV` (00_scope.md R10). -/
abbrev squarings : Nat := 16

/-- `ROUNDS`: modular multiplies of `RSAV` (00_scope.md R10). -/
abbrev rounds : Nat := 17

/-- `VAL` addresses of an instance: `NREG * W` (20_memory.md R61, R63). -/
abbrev valWords (w : LimbWidth) : Nat := nreg * w.count

/-- FREE VALUE (log entry 6): what an operand latch holds where 10_state.md R42 and 93_implementation_defined.md row 8 leave it
unspecified. Applied to the counter `State.draws`; nothing constrains it. Safe. -/
opaque freeLatch : Nat → Value

/-- FREE VALUE (log entry 6): what the `op` latch holds between commands (93_implementation_defined.md row 8). Safe. -/
opaque freeOp : Nat → Opcode

/-- FREE VALUE (log entry 6): what the `dst` latch holds between commands (93_implementation_defined.md row 8). Safe. -/
opaque freeDst : Nat → Fin nreg

end Config

end Sys2Proof
end

