-- ==== Sys2Proof/Machine/State.lean ====
section
/-!
DEFINITION. The state of ZKTV-CORE (10_state.md R30 to R51), the inputs its agents bring (20_memory.md R60), the reset state
(R51), and the reasons a step can stop.
-/

namespace Sys2Proof.Machine

/-- The engine's phase (10_state.md R41). -/
inductive Phase where
  /-- no command in progress -/
  | idle
  /-- a command in progress, no hint outstanding -/
  | exec
  /-- a command in progress, one hint request outstanding -/
  | hwait
  /-- the fatal state -/
  | halted
  deriving DecidableEq, Repr

/-- The error codes the block writes (60_exceptions.md R221). The reserved codes 2 to 7 and 12 to 15 are never written, so they
have no name here. -/
inductive ErrCode where
  | none | sigMismatch | illegalCommand | verification | modulusZero | address
  deriving DecidableEq, Repr

/-- A hint request `(k, a, b, m)` (20_memory.md R75). -/
structure HintReq where
  k : Nat
  a : Value
  b : Value
  m : Value
  deriving DecidableEq, Repr

/-- A hint response `(q, r)`: two W-limb values and nothing else (20_memory.md R76). -/
structure HintResp where
  q : Value
  r : Value
  deriving DecidableEq, Repr

/-- A host-port transaction (20_memory.md R65 to R68, R72): a word address and, for a write, a full-width datum. A `VAL` datum
is L bits: the model's type carries 64, of which the port of an L = 32 instance has the low 32 (log entry 14). -/
inductive HostTxn where
  /-- `MemRead(VAL, addr, L)` -/
  | readVal (addr : Nat)
  /-- `MemWrite(VAL, addr, L, d)` -/
  | writeVal (addr : Nat) (d : BitVec 64)
  /-- `MemRead(CTRL, addr, 32)` -/
  | readCtrl (addr : Nat)
  /-- `MemWrite(CTRL, addr, 32, d)` -/
  | writeCtrl (addr : Nat) (d : Word)
  deriving DecidableEq, Repr

/-- What a host read returned: the transaction and its datum, zero-extended to 64 bits. -/
structure ReadRecord where
  txn : HostTxn
  data : BitVec 64
  deriving DecidableEq, Repr

/-- One move of one agent (20_memory.md R60; 60_exceptions.md R224: "one host transaction, one engine step, one hint response,
or reset"). DESIGN CHOICE (log entry 3): the environment's inputs and the order of all moves are plain data in State, so a
statement about every state is a statement about every environment and every interleaving. Safe. -/
inductive Event where
  /-- the host issues a transaction -/
  | host (t : HostTxn)
  /-- the host port lets its oldest waiting transaction take effect, if it may (20_memory.md R66) -/
  | release
  /-- the engine makes one step, if a command is in progress -/
  | engine
  /-- the hint provider responds (20_memory.md R76) -/
  | hint (p : HintResp)
  /-- the reset input is asserted (70_reset_and_hazards.md R260) -/
  | reset
  deriving DecidableEq, Repr

/-- All the state of ZKTV-CORE (10_state.md R30 to R51), and after it the model's own fields. -/
structure State where
  /-- `L`, the instance parameter (00_scope.md R10, R11): no step changes it (log entry 1). -/
  width : LimbWidth
  /-- the value registers V0 to V7 (10_state.md R30) -/
  v : Vector Value 8
  /-- `CMD` (10_state.md R35) -/
  cmd : Word
  /-- `STATUS.MATCH` (10_state.md R36) -/
  matched : Bool
  /-- `STATUS.ERR` (10_state.md R36) -/
  err : ErrCode
  /-- `STATUS.HCOUNT` (10_state.md R36) -/
  hcount : BitVec 5
  /-- the phase, which `STATUS.BUSY`, `STATUS.HWAIT` and `STATUS.FATAL` show (10_state.md R41) -/
  phase : Phase
  /-- the opcode latch (10_state.md R42) -/
  op : Opcode
  /-- the destination latch (10_state.md R42) -/
  dst : Fin 8
  /-- operand latch `la` (10_state.md R42) -/
  la : Value
  /-- operand latch `lb` (10_state.md R42) -/
  lb : Value
  /-- operand latch `lm` (10_state.md R42) -/
  lm : Value
  /-- the RSA accumulator (10_state.md R43) -/
  acc : Value
  /-- modular multiplies issued by the current command (10_state.md R43) -/
  round : Nat
  /-- the outstanding hint request (10_state.md R44) -/
  hreq : Option HintReq
  /-- the received hint response (10_state.md R44). No rule but reset's empties it: that it is held only until the engine's step that
  checks it is a DESIGN CHOICE (log entry 26). -/
  hresp : Option HintResp
  /-- MODEL'S OWN (log entry 3): host transactions waiting at the port, oldest first (20_memory.md R66). -/
  held : List HostTxn
  /-- MODEL'S OWN (log entry 3): the moves to come, next one first. -/
  events : List Event
  /-- MODEL'S OWN (log entry 3): what the host's reads have returned, oldest first. -/
  reads : List ReadRecord
  /-- MODEL'S OWN (log entry 8): the counter the free values are applied to. -/
  draws : Nat
  deriving DecidableEq, Repr

/-- Why a step stops the machine. Only in states that no rule of the spec reaches; the invariant `State.Inv` of Safety.lean
rules both out (log entry 12). -/
inductive Fault where
  /-- Raised by the engine's step in phase EXEC when `CMD` holds no legal word. Safe: no rule reaches that state. -/
  | noRunningCommand
  /-- Raised by a meaning in phase EXEC when the `op` latch is not the running command's opcode. Safe: no rule reaches that
  state. -/
  | latchMismatch
  deriving DecidableEq, Repr

/-- Why an instruction has no meaning. -/
inductive Refusal where
  /-- Raised by an arm of `exec` for an instruction that is not modelled yet. Safe. No arm raises it now. -/
  | notModelled (mnemonic : String)
  deriving DecidableEq, Repr

/-- The state of an instance of limb width `w` after reset (10_state.md R51). `op`, `dst`, `la`, `lb` and `lm` are unspecified
there: the zeros here are a DESIGN CHOICE (log entry 7), unsafe. -/
def State.resetAt (w : LimbWidth) : State where
  width := w
  v := Vector.replicate 8 0
  cmd := 0
  matched := false
  err := .none
  hcount := 0
  phase := .idle
  op := .zero
  dst := 0
  la := 0
  lb := 0
  lm := 0
  acc := 0
  round := 0
  hreq := none
  hresp := none
  held := []
  events := []
  reads := []
  draws := 0

/-- The default instance, L = 64, after reset (00_scope.md R10; 10_state.md R51; log entry 1). -/
def State.reset : State := State.resetAt .l64

end Sys2Proof.Machine
end

