-- ==== Sys2Proof/Machine/Flags.lean ====
section
/-!
DEFINITION. The control registers as words: `STATUS` (10_state.md R36, R41), `CONFIG` (R38), and the error codes
(60_exceptions.md R221). ZKTV-CORE has no other flag (10_state.md R39).
-/

namespace Sys2Proof.Machine

/-- The code of `STATUS.ERR` (60_exceptions.md R221). -/
def ErrCode.code : ErrCode → BitVec 4
  | .none => 0
  | .sigMismatch => 1
  | .illegalCommand => 8
  | .verification => 9
  | .modulusZero => 10
  | .address => 11

/-- "A code is fatal exactly when it is 8 or more" (60_exceptions.md R221). -/
def ErrCode.isFatal (e : ErrCode) : Bool := decide (8 ≤ e.code.toNat)

/-- `STATUS.BUSY = (phase in {EXEC, HWAIT})` (10_state.md R41). -/
def State.busy (s : State) : Bool := s.phase == .exec || s.phase == .hwait

/-- `STATUS.HWAIT = (phase = HWAIT)` (10_state.md R41). -/
def State.hwaiting (s : State) : Bool := s.phase == .hwait

/-- `STATUS.FATAL = (phase = HALTED)` (10_state.md R41). -/
def State.fatalBit (s : State) : Bool := s.phase == .halted

/-- The `STATUS` register (10_state.md R36): `BUSY[0]`, `HWAIT[1]`, `MATCH[2]`, `FATAL[3]`, `ERR[7:4]`, `HCOUNT[12:8]`, and 0
above. -/
def State.statusWord (s : State) : Word :=
  BitVec.ofNat 32 (2 ^ 8 * s.hcount.toNat + 2 ^ 4 * s.err.code.toNat + 2 ^ 3 * s.fatalBit.toNat + 2 ^ 2 * s.matched.toNat
    + 2 ^ 1 * s.hwaiting.toNat + s.busy.toNat)

/-- The `CONFIG` register (10_state.md R38): `LIMB_BITS[7:0]`, `LIMB_COUNT[15:8]`, `NREG[19:16]`, and 0 above. -/
def configWord (w : LimbWidth) : Word :=
  BitVec.ofNat 32 (Config.nreg * 2 ^ 16 + w.count * 2 ^ 8 + w.bits)

end Sys2Proof.Machine
end

