-- ==== Sys2Proof/Machine/Limb.lean ====
section
/-!
DEFINITION. The limb view of a value (00_scope.md R14): `limbs`, `val`, and the write of one limb.
-/

namespace Sys2Proof.Machine

/-- Limb `i` of a value: `limbs(x).w[i] = (x div 2^(L*i)) mod 2^L` (00_scope.md R14). -/
def limbOf (w : LimbWidth) (x : Value) (i : Nat) : Nat := x.toNat / 2 ^ (w.bits * i) % 2 ^ w.bits

/-- `limbs(x)`: the W limbs, least significant first (00_scope.md R14; 20_memory.md R69). -/
def limbs (w : LimbWidth) (x : Value) : List Nat := (List.range w.count).map (limbOf w x)

/-- `val`: the sum of `w[i] * 2^(L*i)` (00_scope.md R14), for limb lists of any length. -/
def valOf (w : LimbWidth) : List Nat → Nat
  | [] => 0
  | x :: xs => x + 2 ^ w.bits * valOf w xs

/-- The value with the given limbs. -/
def ofLimbs (w : LimbWidth) (xs : List Nat) : Value := BitVec.ofNat 2048 (valOf w xs)

/-- `V.w[i] <- d`: one limb written with L bits, the others kept (20_memory.md R67). -/
def setLimb (w : LimbWidth) (x : Value) (i d : Nat) : Value := ofLimbs w ((limbs w x).set i (d % 2 ^ w.bits))

/-- Two values equal in all W limbs (44_reducer.md R183; 45_rsa.md R203). -/
def limbsEq (w : LimbWidth) (x y : Value) : Bool := limbs w x == limbs w y

end Sys2Proof.Machine
end

