-- ==== Sys2Proof/Machine/Operands.lean ====
section
/-!
DEFINITION. The operand form of ZKTV-CORE: every operand is a whole value register named by a register field (30_encoding.md
R92, R93), and the host reaches the registers limb by limb through the `VAL` map (20_memory.md R63).
-/

namespace Sys2Proof.Machine

/-- The register a field names: `Vn` for n from 0 to 7, i.e. its low three bits where bit 3 is 0 (30_encoding.md R92). A field
with bit 3 set makes the word illegal (R97) before this is read. -/
def regNum (r : RegField) : Fin 8 := ⟨r.toNat % 8, Nat.mod_lt _ (by decide)⟩

/-- `V[r]` (00_scope.md R15). -/
def State.reg (s : State) (r : Fin 8) : Value := s.v[r.val]

/-- `V[r] <- x` (00_scope.md R15). No register is hardwired (10_state.md R30). -/
def State.setReg (s : State) (r : Fin 8) (x : Value) : State := { s with v := s.v.set r.val x }

/-- What an operand latch takes at acceptance: the register's value where the command uses the field, and else a FREE VALUE
(10_state.md R42; log entry 6). -/
def State.latchValue (s : State) (r : Option RegField) (draw : Nat) : Value :=
  match r with
  | some f => s.reg (regNum f)
  | none => Config.freeLatch draw

/-- A `VAL` address that exists: below `NREG * W` (20_memory.md R61, R63). -/
def State.valMapped (s : State) (addr : Nat) : Bool := decide (addr < Config.valWords s.width)

/-- The register of a `VAL` address `r*W + i` (20_memory.md R63). Read only where the address is mapped; the `mod 8` keeps the
number in range elsewhere. -/
def State.valReg (s : State) (addr : Nat) : Fin 8 := ⟨addr / s.width.count % 8, Nat.mod_lt _ (by decide)⟩

/-- The limb index of a `VAL` address `r*W + i` (20_memory.md R63). -/
def State.valLimb (s : State) (addr : Nat) : Nat := addr % s.width.count

/-- The limb at a mapped `VAL` address (20_memory.md R65). -/
def State.readVal (s : State) (addr : Nat) : BitVec 64 :=
  BitVec.ofNat 64 (limbOf s.width (s.reg (s.valReg addr)) (s.valLimb addr))

/-- `V[r].w[i] <- d` at a mapped `VAL` address (20_memory.md R67). The port carries exactly L bits of `d` (log entry 14). -/
def State.writeVal (s : State) (addr : Nat) (d : BitVec 64) : State :=
  s.setReg (s.valReg addr) (setLimb s.width (s.reg (s.valReg addr)) (s.valLimb addr) d.toNat)

end Sys2Proof.Machine
end

