-- ==== Sys2Proof/Machine/Ops.lean ====
section
/-!
DEFINITION. The shared operations of the engine: accepting a command (10_state.md R47), completing one (R46), entering the fatal
state (60_exceptions.md R226; only reset leaves it, R228), the hint exchange (20_memory.md R77), and the reset input
(70_reset_and_hazards.md R260). The first section holds the plain updates they are made of.
-/

namespace Sys2Proof.Machine

/-! ### Plain updates -/

/-- `CMD <- w` (10_state.md R47). -/
def State.setCmd (s : State) (w : Word) : State := { s with cmd := w }

/-- `acc <- x` (45_rsa.md R201). -/
def State.setAcc (s : State) (x : Value) : State := { s with acc := x }

/-- The latches and flags at acceptance (10_state.md R37, R42, R47): `op`, `dst` and the operands are latched, `MATCH`, `ERR`,
`HCOUNT` and `round` are cleared, and the phase is EXEC. Three draws are used up, whether or not a latch took one. -/
def State.start (s : State) (op : Opcode) (dst : Fin 8) (la lb lm : Value) : State :=
  { s with op := op, dst := dst, la := la, lb := lb, lm := lm, matched := false, err := .none, hcount := 0, round := 0,
           phase := .exec, draws := s.draws + 3 }

/-- Between commands the operand latches hold FREE VALUES (93_implementation_defined.md row 8; log entry 6). -/
def State.releaseLatches (s : State) : State :=
  { s with op := Config.freeOp s.draws, dst := Config.freeDst s.draws, la := Config.freeLatch s.draws,
           lb := Config.freeLatch (s.draws + 1), lm := Config.freeLatch (s.draws + 2), draws := s.draws + 3 }

/-- The `STATUS` side of a completion (10_state.md R46). -/
def State.finish (s : State) (code : ErrCode) (m : Bool) : State := { s with err := code, matched := m, phase := .idle }

/-- The update of fatal entry (60_exceptions.md R226). `HCOUNT`, `CMD` and V0 to V7 keep their values. -/
def State.halt (s : State) (code : ErrCode) : State :=
  { s with phase := .halted, hreq := none, matched := false, err := code }

/-- A hint request for round `k` goes out (20_memory.md R75, R77; 44_reducer.md R181). -/
def State.request (s : State) (k : Nat) (a b m : Value) : State :=
  { s with round := k, hreq := some ⟨k, a, b, m⟩, phase := .hwait }

/-- A response to the outstanding request comes in: the request is no longer outstanding and the engine is back in EXEC
(20_memory.md R77). -/
def State.receive (s : State) (p : HintResp) : State := { s with phase := .exec, hreq := none, hresp := some p }

/-- The engine takes the response up: `HCOUNT <- HCOUNT + 1`, just before the check (44_reducer.md R181; log entry 5). It empties
`hresp` in that step: DESIGN CHOICE (log entry 26), since no rule says when a received response ceases to be held. -/
def State.takeResponse (s : State) : State := { s with hresp := none, hcount := s.hcount + 1 }

/-- The port answers a host read. -/
def State.respond (s : State) (t : HostTxn) (d : BitVec 64) : State := { s with reads := s.reads ++ [⟨t, d⟩] }

/-- The port holds a host transaction (20_memory.md R66). -/
def State.hold (s : State) (t : HostTxn) : State := { s with held := s.held ++ [t] }

/-- The waiting transactions of the port, replaced. -/
def State.setHeld (s : State) (ts : List HostTxn) : State := { s with held := ts }

/-- The moves to come, replaced. -/
def State.setEvents (s : State) (es : List Event) : State := { s with events := es }

/-! ### The operations -/

/-- `raise Fatal(code)` (60_exceptions.md R226): the first cause is kept. -/
def State.fatal (s : State) (code : ErrCode) : State :=
  if s.phase = .halted then s else (s.halt code).releaseLatches

/-- `complete(code, match)` (10_state.md R46): `V[dst] <- result`, then `ERR`, `MATCH`, `BUSY` and the phase, in one update.
Every opcode writes a result. -/
def State.complete (s : State) (result : Value) (code : ErrCode) (m : Bool) : State :=
  ((s.setReg s.dst result).finish code m).releaseLatches

/-- `accept(word)` for the word of `i`, in phase IDLE (10_state.md R47): the word is latched into `CMD`, an illegal one enters
the fatal state, and a legal one has its operands latched. -/
def State.accept (s : State) (i : Instr) : State :=
  if i.wellFormed then
    (s.setCmd (encode i)).start i.opcode (regNum i.rd) (s.latchValue i.ra s.draws) (s.latchValue i.rb (s.draws + 1))
      (s.latchValue i.rm (s.draws + 2))
  else (s.setCmd (encode i)).fatal .illegalCommand

/-- A `CMD` write of a word that encodes no command (30_encoding.md R98): latched in phase IDLE, then fatal. In the other phases
nothing happens: the port holds the write while busy (20_memory.md R66), and HALTED ignores it (60_exceptions.md R227). -/
def State.acceptIllegal (s : State) (w : Word) : State :=
  if s.phase = .idle then (s.setCmd w).fatal .illegalCommand else s

/-- One command, phase by phase: in IDLE its word is accepted (10_state.md R47); in EXEC, if it is the command in progress, the
engine makes its next step (`work`); a command written while another is in progress waits and changes nothing (20_memory.md
R66); while a hint is outstanding the engine does nothing (R77); in HALTED nothing happens (60_exceptions.md R227). -/
def State.runCommand (s : State) (i : Instr) (work : State → State) : Host.Outcome State Fault Refusal :=
  match s.phase with
  | .idle => .next (s.accept i)
  | .exec =>
    if s.cmd = encode i then if s.op = i.opcode then .next (work s) else .fault .latchMismatch
    else .next s
  | .hwait => .next s
  | .halted => .next s

/-- A hint response arrives (20_memory.md R76, R77): it answers the outstanding request, and with none outstanding it is
discarded (R81; 60_exceptions.md R227). -/
def State.hintResponse (s : State) (p : HintResp) : State :=
  if s.phase = .hwait then s.receive p else s

/-- The reset input (70_reset_and_hazards.md R260, R261): every piece of the block's state goes to its reset value. The instance
keeps its limb width; the host's waiting transactions, the moves to come and what reads have returned are outside the block and
stay (log entry 21). -/
def State.applyReset (s : State) : State :=
  { State.resetAt s.width with held := s.held, events := s.events, reads := s.reads, draws := s.draws }

end Sys2Proof.Machine
end

