-- ==== Sys2Proof/Machine/LimbVector.lean ====
section
/-!
DEFINITION. The limb vector family: `ZERO` (41_limb_vector.md R120, R121).
-/

namespace Sys2Proof.Machine

/-- `zero()`: every limb 0 (41_limb_vector.md R121). -/
def zeroValue (w : LimbWidth) : Value := ofLimbs w (List.replicate w.count 0)

/-- `ZERO RD` (41_limb_vector.md R120): accepted, then completed with `zero()`. -/
def execZero (rd : RegField) (s : State) : Host.Outcome State Fault Refusal :=
  s.runCommand (.zero rd) fun s => s.complete (zeroValue s.width) .none false

end Sys2Proof.Machine
end

