-- ==== Sys2Proof/Machine/Multiplier.lean ====
section
/-!
DEFINITION. The multiplier family: `MULF` (43_multiplier.md R161) and `MUL` (R160).
-/

namespace Sys2Proof.Machine

/-- The inner loop of `MULF` for one limb `bj` (43_multiplier.md R161): `as` runs over `a.w[0..]`, the second list over
`res.w[j..]`, and `carry` starts at 0. It ends where `i + j = W`, and the carry left there is discarded (R165). `base` is `2^L`.
-/
def mulRow (base bj : Nat) : List Nat → List Nat → Nat → List Nat
  | a :: as, r :: rs, carry =>
    let p := a * bj + r + carry
    p % base :: mulRow base bj as rs (p / base)
  | _, rs, _ => rs

/-- The value `p` of every turn of that inner loop, in its order (43_multiplier.md R161, R163): `mulRow` stores `p mod 2^L` and carries
`p div 2^L`. -/
def rowProducts (base bj : Nat) : List Nat → List Nat → Nat → List Nat
  | a :: as, r :: rs, carry =>
    let p := a * bj + r + carry
    p :: rowProducts base bj as rs (p / base)
  | _, _, _ => []

/-- The outer loop of `MULF` over the limbs of `b`, from limb `j` on (43_multiplier.md R161, R162). -/
def mulPasses (base : Nat) (as : List Nat) : List Nat → Nat → List Nat → List Nat
  | [], _, res => res
  | bj :: bs, j, res => mulPasses base as bs (j + 1) (res.take j ++ mulRow base bj as (res.drop j) 0)

/-- `MULF(a, b)` (43_multiplier.md R161): `res` starts as `zero()`. -/
def mulf (w : LimbWidth) (a b : Value) : Value :=
  ofLimbs w (mulPasses (2 ^ w.bits) (limbs w a) (limbs w b) 0 (List.replicate w.count 0))

/-- `MUL RD, RA, RB` (43_multiplier.md R160): accepted, then completed with `MULF(la, lb)`. -/
def execMul (rd ra rb : RegField) (s : State) : Host.Outcome State Fault Refusal :=
  s.runCommand (.mul rd ra rb) fun s => s.complete (mulf s.width s.la s.lb) .none false

end Sys2Proof.Machine
end

