-- ==== Sys2Proof/Machine/Subtractor.lean ====
section
/-!
DEFINITION. The subtractor family: `SUBF` (42_subtractor.md R141) and `SUB` (R140).
-/

namespace Sys2Proof.Machine

/-- The limb loop of `SUBF`, least significant limb first (42_subtractor.md R141): the result limbs and the borrow that is left.
`base` is `2^L`. -/
def subLimbs (base : Nat) : List Nat → List Nat → Nat → List Nat × Nat
  | a :: as, b :: bs, borrow =>
    let sub := b + borrow
    let limb := if a < sub then a + base - sub else a - sub
    let rest := subLimbs base as bs (if a < sub then 1 else 0)
    (limb :: rest.1, rest.2)
  | _, _, borrow => ([], borrow)

/-- `SUBF(a, b)` (42_subtractor.md R141). The final borrow is discarded (R145). -/
def subf (w : LimbWidth) (a b : Value) : Value := ofLimbs w (subLimbs (2 ^ w.bits) (limbs w a) (limbs w b) 0).1

/-- The final borrow of `SUBF`, which no state records (42_subtractor.md R145). -/
def subBorrow (w : LimbWidth) (a b : Value) : Nat := (subLimbs (2 ^ w.bits) (limbs w a) (limbs w b) 0).2

/-- `SUB RD, RA, RB` (42_subtractor.md R140): accepted, then completed with `SUBF(la, lb)`. -/
def execSub (rd ra rb : RegField) (s : State) : Host.Outcome State Fault Refusal :=
  s.runCommand (.sub rd ra rb) fun s => s.complete (subf s.width s.la s.lb) .none false

end Sys2Proof.Machine
end

