-- ==== Sys2Proof/Machine/Reducer.lean ====
section
/-!
DEFINITION. The modular reducer family: `CHECK` (44_reducer.md R183), the two halves of `MODMUL` around its hint exchange
(R181), the hint contract (R182), and `MULMOD` (R180).
-/

namespace Sys2Proof.Machine

/-- `CHECK(a, b, m, q, r)` (44_reducer.md R183): `SUBF(MULF(a, b), MULF(q, m)) = r` in all W limbs. -/
def check (w : LimbWidth) (a b m q r : Value) : Bool := limbsEq w (subf w (mulf w a b) (mulf w q m)) r

/-- `T(a, b) = (val(a) * val(b)) mod 2^N`, the truncated product (44_reducer.md, opening). -/
def truncProd (a b : Value) : Nat := a.toNat * b.toNat % 2 ^ 2048

/-- The premise `HINT_CORRECT(a, b, m, q, r)` (44_reducer.md R182). The block never checks it in full (R186). -/
def HintCorrect (a b m q r : Value) : Prop :=
  m.toNat ≠ 0 ∧ r.toNat < m.toNat ∧ truncProd a b = q.toNat * m.toNat + r.toNat

/-- `MODMUL(k, a, b, m)` up to its hint request (44_reducer.md R181): a zero modulus is fatal before any request (R188). -/
def State.modmulIssue (s : State) (k : Nat) (a b : Value) : State :=
  if s.lm.toNat = 0 then s.fatal .modulusZero else s.request k a b s.lm

/-- `MODMUL(k, a, b, m)` from its hint response on (44_reducer.md R181): `HCOUNT` counts it, a failed `CHECK` is fatal (R187),
and a passed one goes on with the remainder `r`. -/
def State.modmulCheck (s : State) (a b : Value) (p : HintResp) (passed : State → State) : State :=
  if check s.width a b s.lm p.q p.r then passed s.takeResponse else s.takeResponse.fatal .verification

/-- The engine's step of `MULMOD` (44_reducer.md R180): the request of round 1, and after its response the check and the
completion with `r`. -/
def State.mulmodStep (s : State) : State :=
  match s.hresp with
  | none => s.modmulIssue 1 s.la s.lb
  | some p => s.modmulCheck s.la s.lb p fun t => t.complete p.r .none false

/-- `MULMOD RD, RA, RB, RM` (44_reducer.md R180). -/
def execMulmod (rd ra rb rm : RegField) (s : State) : Host.Outcome State Fault Refusal :=
  s.runCommand (.mulmod rd ra rb rm) State.mulmodStep

end Sys2Proof.Machine
end

