-- ==== Sys2Proof/Machine/Rsa.lean ====
section
/-!
DEFINITION. The RSA-65537 family: the 17-round schedule (45_rsa.md R201), the comparison (R203), and `RSAV` (R200).
-/

namespace Sys2Proof.Machine

/-- The second operand of round `k` (45_rsa.md R201): the accumulator in rounds 1 to 16, the signature in round 17. -/
def State.rsaOperand (s : State) (k : Nat) : Value := if k = Config.rounds then s.lb else s.acc

/-- Round `round + 1` up to its request (45_rsa.md R201). Before round 1 the accumulator takes the signature. -/
def State.rsaIssue (s : State) : State :=
  let t := if s.round = 0 then s.setAcc s.lb else s
  t.modmulIssue (t.round + 1) t.acc (t.rsaOperand (t.round + 1))

/-- After round 17 (45_rsa.md R200, R203, R204): the comparison with the message over all W limbs, and the completion, which
writes the accumulator in both outcomes. -/
def State.rsaFinish (s : State) : State :=
  if limbsEq s.width s.acc s.la then s.complete s.acc .none true else s.complete s.acc .sigMismatch false

/-- The engine's step of `RSAV`: the next round's request, the check of a response, or the end of the schedule. -/
def State.rsavStep (s : State) : State :=
  match s.hresp with
  | some p => s.modmulCheck s.acc (s.rsaOperand s.round) p fun t => t.setAcc p.r
  | none => if s.round < Config.rounds then s.rsaIssue else s.rsaFinish

/-- `RSAV RD, RA, RB, RM` (45_rsa.md R200). -/
def execRsav (rd ra rb rm : RegField) (s : State) : Host.Outcome State Fault Refusal :=
  s.runCommand (.rsav rd ra rb rm) State.rsavStep

end Sys2Proof.Machine
end

