-- ==== Sys2Proof/Machine/HostPort.lean ====
section
/-!
DEFINITION. The host port (20_memory.md R61 to R72), the turns of the port and of the engine, and one move of one agent.
-/

namespace Sys2Proof.Machine

/-- A read of `CTRL`, the only transaction that never waits (20_memory.md R66). -/
def HostTxn.isCtrlRead : HostTxn → Bool
  | .readCtrl _ => true
  | _ => false

/-- The interlock (20_memory.md R66): while `BUSY = 1`, everything but a read of `CTRL` waits. -/
def State.interlocked (s : State) (t : HostTxn) : Bool := s.busy && !t.isCtrlRead

/-- The effect of a host write of `w` to `CMD` (20_memory.md R68; 10_state.md R47; 30_encoding.md R98). -/
def State.writeCmd (s : State) (w : Word) : Host.Outcome State Fault Refusal :=
  match decode w with
  | .ok i => exec i s
  | .error _ => .next (s.acceptIllegal w)

/-- A read of `VAL` (20_memory.md R64, R65). -/
def State.hostReadVal (s : State) (addr : Nat) : State :=
  if s.valMapped addr then s.respond (.readVal addr) (s.readVal addr)
  else (s.respond (.readVal addr) 0).fatal .address

/-- A write of `VAL` (20_memory.md R64, R67): ignored in the fatal state (60_exceptions.md R227). -/
def State.hostWriteVal (s : State) (addr : Nat) (d : BitVec 64) : State :=
  if s.valMapped addr then if s.phase = .halted then s else s.writeVal addr d
  else s.fatal .address

/-- A read of `CTRL` (20_memory.md R62, R64, R68). -/
def State.hostReadCtrl (s : State) (addr : Nat) : State :=
  if addr = 0 then s.respond (.readCtrl addr) ((configWord s.width).setWidth 64)
  else if addr = 1 then s.respond (.readCtrl addr) (s.statusWord.setWidth 64)
  else if addr = 2 then s.respond (.readCtrl addr) (s.cmd.setWidth 64)
  else (s.respond (.readCtrl addr) 0).fatal .address

/-- A write of `CTRL` (20_memory.md R64, R68): `CONFIG` and `STATUS` ignore it (10_state.md R34), `CMD` takes a command. -/
def State.hostWriteCtrl (s : State) (addr : Nat) (d : Word) : Host.Outcome State Fault Refusal :=
  if addr = 0 then .next s
  else if addr = 1 then .next s
  else if addr = 2 then s.writeCmd d
  else .next (s.fatal .address)

/-- A host transaction takes effect (20_memory.md R64 to R68). -/
def State.performHost (s : State) (t : HostTxn) : Host.Outcome State Fault Refusal :=
  match t with
  | .readVal addr => .next (s.hostReadVal addr)
  | .writeVal addr d => .next (s.hostWriteVal addr d)
  | .readCtrl addr => .next (s.hostReadCtrl addr)
  | .writeCtrl addr d => s.hostWriteCtrl addr d

/-- The host issues a transaction (20_memory.md R66, R70): it waits behind an earlier one that waits, and under the interlock;
else it takes effect at once. -/
def State.issueHost (s : State) (t : HostTxn) : Host.Outcome State Fault Refusal :=
  if s.held = [] ∧ s.interlocked t = false then s.performHost t else .next (s.hold t)

/-- The port's turn: the oldest waiting transaction takes effect, if the interlock allows it (20_memory.md R66). -/
def State.releaseTurn (s : State) : Host.Outcome State Fault Refusal :=
  match s.held with
  | [] => .next s
  | t :: ts => if s.interlocked t then .next s else (s.setHeld ts).performHost t

/-- The engine's turn: in phase EXEC one step of the command in `CMD`, which is the command in progress (10_state.md R35); in
the other phases nothing (20_memory.md R77, R80; 60_exceptions.md R227, R238). -/
def State.engineTurn (s : State) : Host.Outcome State Fault Refusal :=
  match s.phase with
  | .exec =>
    match decode s.cmd with
    | .ok i => exec i s
    | .error _ => .fault .noRunningCommand
  | _ => .next s

/-- The block's own move when no input comes (70_reset_and_hazards.md R268, decision D31: the engine always gets its turn): a
waiting transaction that may take effect does, and else the engine makes a step (log entry 4). -/
def State.ownTurn (s : State) : Host.Outcome State Fault Refusal :=
  match s.held with
  | [] => s.engineTurn
  | t :: _ => if s.interlocked t then s.engineTurn else s.releaseTurn

/-- One move of one agent (20_memory.md R60; 60_exceptions.md R224). -/
def State.handleEvent (s : State) (e : Event) : Host.Outcome State Fault Refusal :=
  match e with
  | .host t => s.issueHost t
  | .release => s.releaseTurn
  | .engine => s.engineTurn
  | .hint p => .next (s.hintResponse p)
  | .reset => .next s.applyReset

/-- The next move: the head of `events`, and the block's own where there is none (log entries 3 and 4). -/
def State.nextMove (s : State) : Host.Outcome State Fault Refusal :=
  match s.events with
  | [] => s.ownTurn
  | e :: es => (s.setEvents es).handleEvent e

/-- The block at rest, with a host write of `w` to `CMD` as its next move (log entry 22). -/
def State.placeCommand (s : State) (w : Word) : State :=
  { s with phase := .idle, hreq := none, hresp := none, held := [], events := .host (.writeCtrl 2 w) :: s.events }

end Sys2Proof.Machine
end

