-- ==== Sys2Proof/Machine/Step.lean ====
section
/-!
DEFINITION. One step of ZKTV-CORE, and where a command word stands so that the next step takes it.
-/

namespace Sys2Proof.Machine

/-- One step: one move of one agent (60_exceptions.md R224). -/
def step (s : State) : Host.Outcome State Fault Refusal := s.nextMove

/-- `s` with a command word where the next step takes it: nothing is fetched, so it is the next host write to `CMD`
(10_state.md R48; log entry 22). -/
def State.withFetchWord (s : State) (nbits w : Nat) : State := s.placeCommand (BitVec.ofNat 32 (w % 2 ^ nbits))

end Sys2Proof.Machine
end

