-- ==== Sys2Proof/Machine/HostSide.lean ====
section
/-!
DEFINITION. The host software's conversions (41_limb_vector.md R122 to R127): `toNative`, `fromNative` and `fromHex`. They are
reference functions and not part of the block (00_scope.md R8): no step calls them. Text is a list of characters.
-/

namespace Sys2Proof.Machine

/-- The host-side errors (60_exceptions.md R220, R222). The block never raises them. -/
inductive HostError where
  | formatError | rangeError
  deriving DecidableEq, Repr

/-- `toNative(v) = val(v)`: the sum of `words[i] << (L*i)` (41_limb_vector.md R122). -/
def toNative (w : LimbWidth) (x : Value) : Nat := valOf w (limbs w x)

/-- `limbs(x)` of a number (00_scope.md R14). -/
def natLimbs (w : LimbWidth) (x : Nat) : List Nat :=
  (List.range w.count).map fun i => x / 2 ^ (w.bits * i) % 2 ^ w.bits

/-- `fromNative(x)` (41_limb_vector.md R123; 90_conflicts.md C5). -/
def fromNative (w : LimbWidth) (x : Int) : Except HostError Value :=
  if x < 0 then .error .rangeError
  else if 2 ^ 2048 ≤ x then .error .rangeError
  else .ok (ofLimbs w (natLimbs w x.toNat))

/-- The value of a hex digit of either case (41_limb_vector.md R124; decision D27). -/
def hexDigit (c : Char) : Option Nat :=
  if '0'.toNat ≤ c.toNat ∧ c.toNat ≤ '9'.toNat then some (c.toNat - '0'.toNat)
  else if 'a'.toNat ≤ c.toNat ∧ c.toNat ≤ 'f'.toNat then some (c.toNat - 'a'.toNat + 10)
  else if 'A'.toNat ≤ c.toNat ∧ c.toNat ≤ 'F'.toNat then some (c.toNat - 'A'.toNat + 10)
  else none

/-- All digits of a string, most significant first, or nothing if one character is no hex digit. -/
def hexDigits : List Char → Option (List Nat)
  | [] => some []
  | c :: cs =>
    match hexDigit c, hexDigits cs with
    | some d, some ds => some (d :: ds)
    | _, _ => none

/-- The number of hex digits given LEAST significant first. -/
def hexValue : List Nat → Nat
  | [] => 0
  | d :: ds => d + 16 * hexValue ds

/-- The limbs of hex digits given least significant first: `n` groups of `g` digits, missing ones zero (41_limb_vector.md R124).
-/
def hexGroups (g : Nat) : Nat → List Nat → List Nat
  | 0, _ => []
  | n + 1, ds => hexValue (ds.take g) :: hexGroups g n (ds.drop g)

/-- `fromHex(s)` (41_limb_vector.md R124): the prefix `0x`, at most N/4 = 512 digits, groups of L/4 digits from the right. -/
def fromHex (w : LimbWidth) (s : List Char) : Except HostError Value :=
  match s with
  | '0' :: 'x' :: d =>
    match hexDigits d with
    | none => .error .formatError
    | some ds =>
      if ds.length > 512 then .error .formatError
      else .ok (ofLimbs w (hexGroups (w.bits / 4) w.count ds.reverse))
  | _ => .error .formatError

end Sys2Proof.Machine
end

