-- ==== Sys2Proof/Machine/Asm.lean ====
section
/-!
DEFINITION. The assembler's syntax (30_encoding.md R99), the host-transaction syntax (R100) and the pseudo-instructions (R101).
Host software: no step calls it. Text is a list of characters; blanks around operands are ignored (log entry 19).
-/

namespace Sys2Proof.Machine

/-! ### Text -/

/-- A lower-case letter for an upper-case one: mnemonics and register names are case-insensitive (30_encoding.md R99). -/
def lowerChar (c : Char) : Char := if 'A'.toNat ≤ c.toNat ∧ c.toNat ≤ 'Z'.toNat then Char.ofNat (c.toNat + 32) else c

/-- A blank. -/
def isBlank (c : Char) : Bool := c == ' ' || c == '\t'

/-- A text without blanks at its two ends. -/
def trimBlanks (s : List Char) : List Char := ((s.dropWhile isBlank).reverse.dropWhile isBlank).reverse

/-- A text split at every occurrence of a character. -/
def splitAtChar (sep : Char) : List Char → List (List Char)
  | [] => [[]]
  | c :: cs =>
    if c = sep then [] :: splitAtChar sep cs
    else match splitAtChar sep cs with
      | [] => [[c]]
      | h :: t => (c :: h) :: t

/-- The first word of a line, in lower case. -/
def lineHead (s : List Char) : List Char := ((trimBlanks s).takeWhile fun c => !isBlank c).map lowerChar

/-- The operands of a line: what follows its first word, split at the commas. -/
def lineOperands (s : List Char) : List (List Char) :=
  match trimBlanks ((trimBlanks s).dropWhile fun c => !isBlank c) with
  | [] => []
  | rest => (splitAtChar ',' rest).map trimBlanks

/-- A register name `v0` to `v7` (30_encoding.md R99). -/
def regName (s : List Char) : Option RegField :=
  match s with
  | [c, d] =>
    if lowerChar c = 'v' ∧ '0'.toNat ≤ d.toNat ∧ d.toNat ≤ '7'.toNat then some (BitVec.ofNat 4 (d.toNat - '0'.toNat)) else none
  | _ => none

/-- The digits of a decimal number, most significant first, given what stands before them. -/
def decimalFrom (acc : Nat) : List Char → Option Nat
  | [] => some acc
  | c :: cs =>
    if '0'.toNat ≤ c.toNat ∧ c.toNat ≤ '9'.toNat then decimalFrom (acc * 10 + (c.toNat - '0'.toNat)) cs else none

/-- A number: "decimal or as `0x` hex" (30_encoding.md R100). DESIGN CHOICE (log entry 19): R100 does not give the hex form (decision
D27 settles `fromHex` alone); here `0x` needs a digit, digits are of either case, and their count has no limit of its own. -/
def number (s : List Char) : Option Nat :=
  match s with
  | [] => none
  | '0' :: 'x' :: d => if d = [] then none else (hexDigits d).map fun ds => hexValue ds.reverse
  | cs => decimalFrom 0 cs

/-- A number below a bound. -/
def numberBelow (bound : Nat) (s : List Char) : Option Nat :=
  match number s with
  | some n => if n < bound then some n else none
  | none => none

/-- A limb name `vR.I` (30_encoding.md R100). DESIGN CHOICE (log entry 19): R100 does not say whether its sentence on
numbers covers the index `I`, and gives `I` no bound beside the address `R*W + I`; here `I` is decimal only, and an `I` of W or more is
an assembly error. -/
def limbName (w : LimbWidth) (s : List Char) : Option (RegField × Nat) :=
  match splitAtChar '.' s with
  | [r, i] =>
    match regName r, decimalFrom 0 i with
    | some f, some n => if i ≠ [] ∧ n < w.count then some (f, n) else none
    | _, _ => none
  | _ => none

/-- A literal of `ldv`: hex by `fromHex`, or a decimal number below `2^N` (30_encoding.md R101). -/
def valueLiteral (w : LimbWidth) (s : List Char) : Option Value :=
  match s with
  | '0' :: 'x' :: d =>
    match fromHex w ('0' :: 'x' :: d) with
    | .ok x => some x
    | .error _ => none
  | cs => (numberBelow (2 ^ 2048) cs).map fun n => ofLimbs w (natLimbs w n)

/-! ### Commands (30_encoding.md R99) -/

/-- The command of a mnemonic (in lower case) and its register operands, in the order `RD, RA, RB, RM`. An operand list of the
wrong length is an error. -/
def commandOf (mnemonic : List Char) (rs : List RegField) : Option Instr :=
  match rs with
  | [d] => if mnemonic = ['z', 'e', 'r', 'o'] then some (.zero d) else none
  | [d, a, b] =>
    if mnemonic = ['s', 'u', 'b'] then some (.sub d a b)
    else if mnemonic = ['m', 'u', 'l'] then some (.mul d a b)
    else none
  | [d, a, b, m] =>
    if mnemonic = ['m', 'u', 'l', 'm', 'o', 'd'] then some (.mulmod d a b m)
    else if mnemonic = ['r', 's', 'a', 'v'] then some (.rsav d a b m)
    else none
  | _ => none

/-- All register operands of a line, or nothing if one is no register name. -/
def regNames : List (List Char) → Option (List RegField)
  | [] => some []
  | s :: ss =>
    match regName s, regNames ss with
    | some r, some rs => some (r :: rs)
    | _, _ => none

/-- A command line (30_encoding.md R99). -/
def assembleCommand (line : List Char) : Option Instr :=
  match regNames (lineOperands line) with
  | some rs => commandOf (lineHead line) rs
  | none => none

/-- The word of a command line (30_encoding.md R90, R99). -/
def assembleWord (line : List Char) : Option Word := (assembleCommand line).map encode

/-! ### Host lines and pseudo-instructions (30_encoding.md R100, R101) -/

/-- One line of a host program. -/
inductive AsmLine where
  | command (i : Instr)
  | wr (r : RegField) (i : Nat) (limb : Nat)
  | rd (r : RegField) (i : Nat)
  | rdc (addr : Nat)
  | wrc (word : Word)
  | hint (p : HintResp)
  | ldv (r : RegField) (x : Value)
  | stv (r : RegField)
  | wait
  deriving DecidableEq, Repr

/-- The `CTRL` address of a control register's name (30_encoding.md R100). -/
def ctrlName (s : List Char) : Option Nat :=
  if s.map lowerChar = ['c', 'o', 'n', 'f', 'i', 'g'] then some 0
  else if s.map lowerChar = ['s', 't', 'a', 't', 'u', 's'] then some 1
  else if s.map lowerChar = ['c', 'm', 'd'] then some 2
  else none

/-- A line that is no command of R99: the host transactions of R100 and the pseudo-instructions of R101. `vz` is a register the
program holds at zero, for `mov`. -/
def hostLineOf (w : LimbWidth) (vz : RegField) (head : List Char) (ops : List (List Char)) : Option AsmLine :=
  match ops with
  | [] => if head = ['w', 'a', 'i', 't'] then some .wait else none
  | [x] =>
    if head = ['r', 'd'] then (limbName w x).map fun p => .rd p.1 p.2
    else if head = ['r', 'd', 'c'] then (ctrlName x).map .rdc
    else if head = ['s', 't', 'v'] then (regName x).map .stv
    else none
  | [x, y] =>
    if head = ['w', 'r'] then
      match limbName w x, numberBelow (2 ^ w.bits) y with
      | some p, some d => some (.wr p.1 p.2 d)
      | _, _ => none
    else if head = ['w', 'r', 'c'] then
      match ctrlName x, numberBelow (2 ^ 32) y with
      | some 2, some d => some (.wrc (BitVec.ofNat 32 d))
      | _, _ => none
    else if head = ['h', 'i', 'n', 't'] then
      match numberBelow (2 ^ 2048) x, numberBelow (2 ^ 2048) y with
      | some q, some r => some (.hint ⟨ofLimbs w (natLimbs w q), ofLimbs w (natLimbs w r)⟩)
      | _, _ => none
    else if head = ['l', 'd', 'v'] then
      match regName x, valueLiteral w y with
      | some r, some v => some (.ldv r v)
      | _, _ => none
    else if head = ['m', 'o', 'v'] then
      match regName x, regName y with
      | some d, some a => some (.command (.sub d a vz))
      | _, _ => none
    else none
  | _ => none

/-- A line of a host program (30_encoding.md R99 to R101). -/
def assembleLine (w : LimbWidth) (vz : RegField) (line : List Char) : Option AsmLine :=
  match assembleCommand line with
  | some i => some (.command i)
  | none => hostLineOf w vz (lineHead line) (lineOperands line)

/-- The `VAL` address of limb `i` of register `r` (20_memory.md R63). -/
def valAddr (w : LimbWidth) (r : RegField) (i : Nat) : Nat := r.toNat * w.count + i

/-- `rdc status` (30_encoding.md R100), the read that `wait` repeats. -/
def statusRead : Event := .host (.readCtrl 1)

/-- The moves a line makes (30_encoding.md R100, R101). How many reads a `wait` makes is not in its text but in their answers: here is
its first, and `hostWait` is the loop. -/
def AsmLine.moves (w : LimbWidth) : AsmLine → List Event
  | .command i => [.host (.writeCtrl 2 (encode i))]
  | .wr r i d => [.host (.writeVal (valAddr w r i) (BitVec.ofNat 64 d))]
  | .rd r i => [.host (.readVal (valAddr w r i))]
  | .rdc a => [.host (.readCtrl a)]
  | .wrc d => [.host (.writeCtrl 2 d)]
  | .hint p => [.hint p]
  | .ldv r x => (List.range w.count).map fun i => .host (.writeVal (valAddr w r i) (BitVec.ofNat 64 (limbOf w x i)))
  | .stv r => (List.range w.count).map fun i => .host (.readVal (valAddr w r i))
  | .wait => [statusRead]

/-- `wait` ends when bit 0 (`BUSY`) of the word read is 0 (30_encoding.md R101). -/
def pollDone (status : BitVec 64) : Bool := !status.getLsbD 0

/-- The host issues `rdc status` as the next move. -/
def State.pollStatus (s : State) : Host.Outcome State Fault Refusal := step (s.setEvents (statusRead :: s.events))

/-- The last answer the host has got says that `BUSY` is 0. -/
def State.sawIdle (s : State) : Bool :=
  match s.reads.getLast? with
  | some x => pollDone x.data
  | none => false

/-- `wait` (30_encoding.md R101): the host's loop of `rdc status` until bit 0 reads 0. After a read that shows `BUSY = 1` the machine
goes on with its other moves, as many as the next number of the list says, before the host reads again; while an earlier transaction
waits the host makes no read (20_memory.md R70). It answers whether the loop has ended: it has not where the list ends first, and such a
host is still in its loop (log entry 19). -/
def hostWait : List Nat → State → Host.Outcome (Bool × State) Fault Refusal
  | [], s => .next (false, s)
  | k :: ks, s =>
    if s.held = [] then
      match s.pollStatus with
      | .next t =>
        if t.sawIdle then .next (true, t)
        else match core.run k t with
          | .next u => hostWait ks u
          | .fault r => .fault r
          | .refused r => .refused r
      | .fault r => .fault r
      | .refused r => .refused r
    else match core.run k s with
      | .next u => hostWait ks u
      | .fault r => .fault r
      | .refused r => .refused r

/-- The value `{limb W-1, ..., limb 0}` that the W answers of `stv` form, given in the order of its reads, limb 0 first
(30_encoding.md R101). -/
def stvValue (w : LimbWidth) (answers : List ReadRecord) : Value := ofLimbs w (answers.map fun x => x.data.toNat % 2 ^ w.bits)

end Sys2Proof.Machine
end

