-- ==== Sys2Proof/Safety.lean ====
section
/-!
DEFINITION. What claims are stated in: safe runs (60_exceptions.md R229), the invariant of the engine (10_state.md R36, R37, R41 to
R44; 70_reset_and_hazards.md R267), and the numbers of an `RSAV` run (45_rsa.md R207).
-/

namespace Sys2Proof.Machine

/-! ### Runs -/

/-- "For a model, the fatal state is a fault. It is never a successful final state" (60_exceptions.md R229). -/
def State.Fatal (s : State) : Prop := s.phase = .halted

/-- A normal end: the engine is idle, `SIG_MISMATCH` included (60_exceptions.md R229). -/
def State.NormalEnd (s : State) : Prop := s.phase = .idle

/-- A hang: a hint request is outstanding and neither a response nor a reset is to come (20_memory.md R80). -/
def State.Hung (s : State) : Prop :=
  s.phase = .hwait ∧ (∀ p, Event.hint p ∉ s.events) ∧ Event.reset ∉ s.events

/-- No fatal state is reached within `n` steps, the premise of 60_exceptions.md R229. -/
def CleanRun (n : Nat) (s : State) : Prop := ∀ k, k ≤ n → ∃ t, core.run k s = .next t ∧ ¬ t.Fatal

/-- `s` with other contents of the five operand latches (10_state.md R42). -/
def State.withLatches (s : State) (op : Opcode) (dst : Fin 8) (la lb lm : Value) : State :=
  { s with op := op, dst := dst, la := la, lb := lb, lm := lm }

/-- Equal but for the five operand latches. -/
def State.SameButLatches (s t : State) : Prop := t = s.withLatches t.op t.dst t.la t.lb t.lm

/-! ### The engine's invariant -/

/-- The command in `CMD` is the one in progress: its opcode and destination are latched (10_state.md R35, R42). -/
def State.RunningCommand (s : State) : Prop := ∃ i, decode s.cmd = .ok i ∧ s.op = i.opcode ∧ s.dst = regNum i.rd

/-- A hint round is open: its request is outstanding, or its response waits for the check. Its modulus is not 0 (44_reducer.md
R188), the request is the one 20_memory.md R75 gives for operand values `a` and `b`, and `HCOUNT` counts the rounds before it
(70_reset_and_hazards.md R267). -/
def State.RoundOpen (s : State) (a b : Value) : Prop :=
  s.lm ≠ 0 ∧ s.round = s.hcount.toNat + 1 ∧
    (s.phase = .hwait ∧ s.hresp = none ∧ s.hreq = some ⟨s.round, a, b, s.lm⟩ ∨ s.phase = .exec ∧ s.hresp.isSome = true)

/-- No hint round is open: the engine is about to make its next request, or to complete. -/
def State.RoundClosed (s : State) : Prop := s.phase = .exec ∧ s.hresp = none ∧ s.round = s.hcount.toNat

/-- How far the command in progress has come (44_reducer.md R181; 45_rsa.md R201). -/
def State.Progress (s : State) : Prop :=
  match s.op with
  | .zero => s.RoundClosed ∧ s.round = 0
  | .sub => s.RoundClosed ∧ s.round = 0
  | .mul => s.RoundClosed ∧ s.round = 0
  | .mulmod => s.RoundClosed ∧ s.round = 0 ∨ s.RoundOpen s.la s.lb ∧ s.round = 1
  | .rsav =>
    s.RoundClosed ∧ s.round ≤ 17 ∧ (s.round ≠ 0 → s.lm ≠ 0) ∨ s.RoundOpen s.acc (s.rsaOperand s.round) ∧ s.round ≤ 17

/-- The invariant of the block. It rules out the states no rule reaches; `held`, `events`, `reads` and `draws` are free in it, so
it holds for every environment. -/
structure State.Inv (s : State) : Prop where
  /-- `HCOUNT` is 0 to 17 (10_state.md R36). -/
  hcount_le : s.hcount.toNat ≤ 17
  /-- `round` is 0 to 17 (10_state.md R43). -/
  round_le : s.round ≤ 17
  /-- A request is outstanding exactly in phase HWAIT (10_state.md R41, R44). -/
  hreq_iff : s.hreq.isSome = true ↔ s.phase = .hwait
  /-- A response is held only while a command runs, or where a fatal host access aborted one (60_exceptions.md R224, R226). That a checked
  response is no longer held is the model's choice (log entry 26). -/
  hresp_phase : s.hresp.isSome = true → s.phase = .exec ∨ s.phase = .halted
  /-- The code is fatal exactly in the fatal state (60_exceptions.md R221, R226). -/
  fatal_iff : s.err.isFatal = true ↔ s.phase = .halted
  /-- While `BUSY = 1`, `ERR = NONE` and `MATCH = 0` (70_reset_and_hazards.md R267). -/
  busy_clear : s.busy = true → s.err = .none ∧ s.matched = false
  /-- `MATCH = 1` only after a completed `RSAV` that matched (10_state.md R36, R37). -/
  matched_done : s.matched = true → s.phase = .idle ∧ s.err = .none ∧ s.hcount = 17
  /-- `SIG_MISMATCH` only after a completed `RSAV` (60_exceptions.md R221). -/
  mismatch_done : s.err = .sigMismatch → s.phase = .idle ∧ s.matched = false ∧ s.hcount = 17
  /-- While `BUSY = 1`, `CMD` holds the command in progress (10_state.md R35, R42). -/
  running : s.busy = true → s.RunningCommand
  /-- While `BUSY = 1`, the command has come as far as its rounds say. -/
  progress : s.busy = true → s.Progress

/-! ### The numbers of an RSAV run -/

/-- The truncated exponentiation `x_k` of 45_rsa.md R207: `x_0 = s`, and then `x_k = ((x_(k-1))^2 mod 2^N) mod M`. -/
def rsaSquares (sig m : Nat) : Nat → Nat
  | 0 => sig
  | k + 1 => rsaSquares sig m k * rsaSquares sig m k % 2 ^ 2048 % m

/-- `x_17 = ((x_16 * s) mod 2^N) mod M` (45_rsa.md R207). -/
def rsaResult (sig m : Nat) : Nat := rsaSquares sig m Config.squarings * sig % 2 ^ 2048 % m

/-- The second operand of round `k` with accumulator `acc` (45_rsa.md R201). -/
def roundOperand (sig acc : Value) (k : Nat) : Value := if k = Config.rounds then sig else acc

/-- The responses of rounds `k`, `k+1`, … all pass their checks, each round taking the one before's `r` as its accumulator
(45_rsa.md R201). -/
def RoundsPass (w : LimbWidth) (sig m : Value) : Value → Nat → List HintResp → Prop
  | _, _, [] => True
  | acc, k, p :: ps =>
    check w acc (roundOperand sig acc k) m p.q p.r = true ∧ RoundsPass w sig m p.r (k + 1) ps

/-- The responses of rounds `k`, `k+1`, … all meet `HINT_CORRECT` (44_reducer.md R182; 45_rsa.md R207). -/
def RoundsCorrect (sig m : Value) : Value → Nat → List HintResp → Prop
  | _, _, [] => True
  | acc, k, p :: ps => HintCorrect acc (roundOperand sig acc k) m p.q p.r ∧ RoundsCorrect sig m p.r (k + 1) ps

/-- The accumulator after some rounds: the last response's `r` (45_rsa.md R201). -/
def lastRemainder : Value → List HintResp → Value
  | acc, [] => acc
  | _, p :: ps => lastRemainder p.r ps

/-- The moves of hint rounds: a request, its response, its check (20_memory.md R77). -/
def roundMoves : List HintResp → List Event
  | [] => []
  | p :: ps => .engine :: .hint p :: .engine :: roundMoves ps

/-- The moves of a whole command with the given responses: the host's `CMD` write, the rounds, and the engine's last step. -/
def commandMoves (i : Instr) (ps : List HintResp) : List Event :=
  .host (.writeCtrl 2 (encode i)) :: (roundMoves ps ++ [.engine])

/-- A read of `CONFIG`, `STATUS` or `CMD`, which a host may make at any time (20_memory.md R66; 70_reset_and_hazards.md R266). -/
def Event.isPoll : Event → Bool
  | .host (.readCtrl a) => decide (a < 3)
  | _ => false

/-- A list of moves without the host's reads of mapped `CTRL` addresses. -/
def withoutPolls (ms : List Event) : List Event := ms.filter fun e => !e.isPoll

end Sys2Proof.Machine
end

