-- ==== Sys2Proof/Certificates/Slice0/Obligations.lean ====
section
/-!
DEFINITION. The statements about the model, each from the numbered rules of spec/ that its docstring names. They state and do not
prove.
-/

open Sys2Proof Sys2Proof.Machine

/-! ### Encoding (30_encoding.md) -/

/-- Every well-formed command is decoded from its own word, with every operand (R90, R92, R94, R95, R99). -/
def Obligations.DecodeOfEncode : Prop := ∀ i : Instr, i.WellFormed → decode (encode i) = .ok i

/-- A word that decodes is the word of the command it decodes to, and that command is well formed (R90, R92, R94). -/
def Obligations.EncodeOfDecode : Prop := ∀ (w : Word) (i : Instr), decode w = .ok i → i.WellFormed ∧ encode i = w

/-- The match and mask rows (R96, R98) accept exactly the words the decoder accepts (R97), and "At most one row matches any word"
(R96). -/
def Obligations.LegalExactlyWhenDecodes : Prop :=
  (∀ w : Word, legal w = true ↔ ∃ i, decode w = .ok i) ∧
  ∀ w : Word, ∀ r₁ ∈ opcodeRows, ∀ r₂ ∈ opcodeRows, r₁.hits w = true → r₂.hits w = true → r₁ = r₂

/-- When a word is illegal, field by field (R92, R94, R95, R97): an unallocated opcode, a used register field of 8 or more, an
unused field that is not 0, or a reserved byte that is not 0; and the all-zero word is illegal. -/
def Obligations.IllegalWordConditions : Prop :=
  (∀ w : Word, (∃ e, decode w = .error e) ↔
    (opcField w).toNat = 0 ∨ 6 ≤ (opcField w).toNat ∨ rsvdField w ≠ 0 ∨ 8 ≤ (rdField w).toNat ∨
    (2 ≤ (opcField w).toNat ∧ (8 ≤ (raField w).toNat ∨ 8 ≤ (rbField w).toNat)) ∨
    (4 ≤ (opcField w).toNat ∧ 8 ≤ (rmField w).toNat) ∨
    ((opcField w).toNat = 1 ∧ (raField w ≠ 0 ∨ rbField w ≠ 0)) ∨
    ((opcField w).toNat ≤ 3 ∧ rmField w ≠ 0)) ∧
  ∃ e, decode 0x00000000 = .error e

/-- The worked encodings of R103: six command lines with their words, four illegal words, and the fields of all ten. -/
def Obligations.WorkedEncodings : Prop :=
  (assembleWord "zero v5".toList = some 0x01500000 ∧ decode 0x01500000 = .ok (.zero 5)) ∧
  (assembleWord "sub v2, v0, v1".toList = some 0x02201000 ∧ decode 0x02201000 = .ok (.sub 2 0 1)) ∧
  (assembleWord "mul v3, v0, v1".toList = some 0x03301000 ∧ decode 0x03301000 = .ok (.mul 3 0 1)) ∧
  (assembleWord "mulmod v4, v0, v1, v2".toList = some 0x04401200 ∧ decode 0x04401200 = .ok (.mulmod 4 0 1 2)) ∧
  (assembleWord "rsav v3, v0, v1, v2".toList = some 0x05301200 ∧ decode 0x05301200 = .ok (.rsav 3 0 1 2)) ∧
  (assembleWord "mul v1, v1, v1".toList = some 0x03111000 ∧ decode 0x03111000 = .ok (.mul 1 1 1)) ∧
  decode 0x02801000 = .error .registerRange ∧ decode 0x02201300 = .error .unusedField ∧
  decode 0x01000001 = .error .reservedField ∧ decode 0x00000000 = .error .unknownOpcode ∧
  packFields 0x01 5 0 0 0 0x00 = 0x01500000 ∧ packFields 0x02 2 0 1 0 0x00 = 0x02201000 ∧
  packFields 0x03 3 0 1 0 0x00 = 0x03301000 ∧ packFields 0x04 4 0 1 2 0x00 = 0x04401200 ∧
  packFields 0x05 3 0 1 2 0x00 = 0x05301200 ∧ packFields 0x03 1 1 1 0 0x00 = 0x03111000 ∧
  packFields 0x02 8 0 1 0 0x00 = 0x02801000 ∧ packFields 0x02 2 0 1 3 0x00 = 0x02201300 ∧
  packFields 0x01 0 0 0 0 0x01 = 0x01000001 ∧ packFields 0x00 0 0 0 0 0x00 = 0x00000000

/-! ### State, reset and the control registers (10_state.md, 70_reset_and_hazards.md) -/

/-- The value after reset of every piece of state that R51 gives one, for both limb widths: in the machine's initial state, and
where the reset input has been asserted in any state. `op`, `dst`, `la`, `lb` and `lm` are left open there, and nothing is said of
them here. -/
def Obligations.ResetValues : Prop :=
  ∀ (w : LimbWidth) (t : State), (t = State.resetAt w ∨ ∃ s : State, s.width = w ∧ t = s.applyReset) →
    (∀ (r : Fin 8) (i : Nat), limbOf w (t.reg r) i = 0) ∧ (∀ r : Fin 8, t.reg r = zeroValue w) ∧
    t.cmd = 0x00000000 ∧ t.statusWord = 0x00000000 ∧ t.busy = false ∧ t.hwaiting = false ∧ t.matched = false ∧
    t.fatalBit = false ∧ t.err = .none ∧ t.hcount = 0 ∧
    configWord t.width = (match w with
      | .l64 => 0x00082040
      | .l32 => 0x00084020) ∧
    t.phase = .idle ∧ t.acc = 0 ∧ t.round = 0 ∧ t.hreq = none ∧ t.hresp = none

/-- Reset from any state, in any phase (R260): every piece of state at its reset value (R51), and the next `CMD` write is
accepted. -/
def Obligations.ResetFromAnyState : Prop :=
  ∀ (s : State) (es : List Event), s.events = .reset :: es →
    ∃ t, step s = .next t ∧ (∀ r : Fin 8, t.reg r = 0) ∧ t.cmd = 0 ∧ t.statusWord = 0 ∧ t.phase = .idle ∧ t.err = .none ∧
      t.matched = false ∧ t.hcount = 0 ∧ t.acc = 0 ∧ t.round = 0 ∧ t.hreq = none ∧ t.hresp = none ∧ t.width = s.width ∧
      ∀ i : Instr, i.WellFormed → ∃ u, t.writeCmd (encode i) = .next u ∧ u.busy = true ∧ u.cmd = encode i

/-- Reset during a command (R261): the outstanding request is withdrawn and a later response changes nothing; a waiting
transaction is released and takes effect on the reset state, the oldest first. That the reset leaves it in `held` and a later move of
the port releases it is the model's choice (log entries 3 and 21, DEDUCED): R261 says only that the reset releases it. -/
def Obligations.ResetReleasesWaiting : Prop :=
  ∀ (s : State) (h : HostTxn) (hs : List HostTxn) (es : List Event), s.held = h :: hs → s.events = .reset :: .release :: es →
    ∃ t, step s = .next t ∧ t.hreq = none ∧ (∀ p, t.hintResponse p = t) ∧ (∀ r : Fin 8, t.reg r = 0) ∧ t.phase = .idle ∧
      t.held = h :: hs ∧ step t = ((t.setEvents es).setHeld hs).performHost h

/-- The `STATUS` layout (R36), with the phase as R41 shows it, for every state; and the values of the error codes (60_exceptions.md
R221), a code being fatal exactly when it is 8 or more. -/
def Obligations.StatusLayout : Prop :=
  (∀ s : State, (s.statusWord.getLsbD 0 = true ↔ s.phase = .exec ∨ s.phase = .hwait) ∧
    (s.statusWord.getLsbD 1 = true ↔ s.phase = .hwait) ∧ s.statusWord.getLsbD 2 = s.matched ∧
    (s.statusWord.getLsbD 3 = true ↔ s.phase = .halted) ∧ s.statusWord.extractLsb' 4 4 = s.err.code ∧
    s.statusWord.extractLsb' 8 5 = s.hcount ∧ s.statusWord.extractLsb' 13 19 = 0 ∧
    (s.statusWord.getLsbD 1 = true → s.statusWord.getLsbD 0 = true)) ∧
  ErrCode.none.code = 0 ∧ ErrCode.sigMismatch.code = 1 ∧ ErrCode.illegalCommand.code = 8 ∧ ErrCode.verification.code = 9 ∧
  ErrCode.modulusZero.code = 10 ∧ ErrCode.address.code = 11 ∧ ∀ e : ErrCode, e.isFatal = true ↔ 8 ≤ e.code.toNat

/-- The limb width is a constant of the instance (00_scope.md R11): no step changes it, and `CONFIG`, whose layout and values are
those of R38, shows it. -/
def Obligations.LimbWidthConstant : Prop :=
  (∀ s t : State, step s = .next t → t.width = s.width) ∧
  configWord .l64 = 0x00082040 ∧ configWord .l32 = 0x00084020 ∧
  ∀ w : LimbWidth, ((configWord w).extractLsb' 0 8).toNat = w.bits ∧ ((configWord w).extractLsb' 8 8).toNat = w.count ∧
    ((configWord w).extractLsb' 16 4).toNat = 8 ∧ (configWord w).extractLsb' 20 12 = 0

/-- The engine's invariant holds at reset, for both limb widths; the machine starts as the L = 64 instance (log entry 1). -/
def Obligations.EngineInvariantAtReset : Prop :=
  State.reset = State.resetAt .l64 ∧ State.reset.Inv ∧ ∀ w : LimbWidth, (State.resetAt w).Inv

/-- Every step keeps the engine's invariant (10_state.md R36, R37, R41 to R44; 60_exceptions.md R221, R226; 70 R267), from every
state that has it. What the invariant says of a received response rests on the model's choices: its receipt and its check are two steps,
with `HCOUNT` counted in the second (log entry 5, DEDUCED), and the check empties `hresp` (log entry 26, DESIGN CHOICE). -/
def Obligations.EngineInvariantKept : Prop := ∀ s t : State, s.Inv → step s = .next t → t.Inv

/-- With the invariant a step always answers a next state: nothing faults and nothing is refused. -/
def Obligations.StepAlwaysAnswers : Prop := ∀ s : State, s.Inv → ∃ t, step s = .next t

/-- `val` and `limbs` as 00_scope.md R14 writes them, and that they are inverse bijections between W-limb values and `[0, 2^N)`. -/
def Obligations.ValAndLimbsInverse : Prop :=
  ∀ w : LimbWidth,
    (∀ x : Value, (limbs w x).length = w.count ∧ (∀ a ∈ limbs w x, a < 2 ^ w.bits) ∧ valOf w (limbs w x) = x.toNat ∧
      (∀ i, i < w.count → (limbs w x)[i]? = some (x.toNat / 2 ^ (w.bits * i) % 2 ^ w.bits))) ∧
    (∀ xs : List Nat, valOf w xs = ((List.range xs.length).map fun i => xs.getD i 0 * 2 ^ (w.bits * i)).sum) ∧
    ∀ xs : List Nat, xs.length = w.count → (∀ a ∈ xs, a < 2 ^ w.bits) →
      valOf w xs < 2 ^ 2048 ∧ limbs w (ofLimbs w xs) = xs

/-! ### Acceptance and the steps -/

/-- A step runs the command it takes up: a `CMD` write that may take effect is `exec` of the command its word decodes to, and the
engine's step in phase EXEC is `exec` of the command in `CMD`. The move is taken off `events` and nothing else is added. The last two
clauses are the model's choices and no rule's: with no move to come the step is the engine's own (log entry 4, DESIGN CHOICE), and a
word placed by `withFetchWord` on the block set at rest is taken up by the very next step (log entry 22, DESIGN CHOICE). -/
def Obligations.StepRunsDecodedCommand : Prop :=
  (∀ (s : State) (w : Word) (i : Instr) (es : List Event), s.events = .host (.writeCtrl 2 w) :: es → s.held = [] →
    s.phase = .idle ∨ s.phase = .halted → decode w = .ok i → step s = exec i (s.setEvents es)) ∧
  (∀ (s : State) (i : Instr) (es : List Event), s.events = .engine :: es → s.phase = .exec → decode s.cmd = .ok i →
    step s = exec i (s.setEvents es)) ∧
  (∀ (s : State) (i : Instr), s.events = [] → s.held = [] → s.phase = .exec → decode s.cmd = .ok i → step s = exec i s) ∧
  (∀ (s : State) (w : Nat) (i : Instr), decodeTableWord 32 w = some i →
    step (s.withFetchWord 32 w) =
      exec i { s with phase := .idle, hreq := none, hresp := none, held := [] })

/-- Every well-formed command is accepted in phase IDLE (10_state.md R37, R42, R47): latches, `STATUS`, phase; and nothing else
changes. -/
def Obligations.IdleAcceptsCommand : Prop :=
  ∀ (i : Instr) (s : State), i.WellFormed → s.phase = .idle →
    ∃ t, exec i s = .next t ∧ t.cmd = encode i ∧ t.op = i.opcode ∧ t.dst.val = i.rd.toNat ∧
      (∀ (f : RegField) (h : f.toNat < 8), i.ra = some f → t.la = s.v[f.toNat]) ∧
      (∀ (f : RegField) (h : f.toNat < 8), i.rb = some f → t.lb = s.v[f.toNat]) ∧
      (∀ (f : RegField) (h : f.toNat < 8), i.rm = some f → t.lm = s.v[f.toNat]) ∧
      t.phase = .exec ∧ t.busy = true ∧ t.matched = false ∧ t.err = .none ∧ t.hcount = 0 ∧ t.round = 0 ∧
      t.v = s.v ∧ t.width = s.width ∧ t.acc = s.acc ∧ t.hreq = s.hreq ∧ t.hresp = s.hresp ∧ t.held = s.held ∧
      t.events = s.events ∧ t.reads = s.reads

/-- `accept(word)` for every word and every phase (10_state.md R47): in IDLE a legal word starts its command and an illegal one is
latched and fatal; in EXEC and HWAIT the write waits; in HALTED it is ignored. -/
def Obligations.CmdWriteAccept : Prop :=
  ∀ (s : State) (w : Word),
    (s.phase = .idle → legal w = true → ∃ t, s.writeCmd w = .next t ∧ t.cmd = w ∧ t.op.code = opcField w ∧
      t.dst.val = (rdField w).toNat ∧ (t.op ≠ .zero → t.la = s.reg (regNum (raField w)) ∧ t.lb = s.reg (regNum (rbField w))) ∧
      (t.op = .mulmod ∨ t.op = .rsav → t.lm = s.reg (regNum (rmField w))) ∧ t.busy = true ∧ t.matched = false ∧
      t.err = .none ∧ t.hcount = 0 ∧ t.round = 0 ∧ t.phase = .exec ∧ t.v = s.v) ∧
    (s.phase = .idle → legal w = false → ∃ t, s.writeCmd w = .next t ∧ t.cmd = w ∧ t.phase = .halted ∧
      t.err = .illegalCommand ∧ t.v = s.v) ∧
    (s.phase = .exec ∨ s.phase = .hwait → s.issueHost (.writeCtrl 2 w) = .next (s.hold (.writeCtrl 2 w))) ∧
    (s.phase = .halted → s.writeCmd w = .next s)

/-- An illegal word written to `CMD` in phase IDLE (R98; 60_exceptions.md R221, 90_conflicts.md C10): latched, then fatal with
`ILLEGAL_COMMAND`; no value register changes, `HCOUNT` is kept, and no request goes out. -/
def Obligations.IllegalWordIsFatal : Prop :=
  (∀ w : Word, legal w = true ↔ ∃ r ∈ opcodeRows, w &&& r.mask = r.matchBits) ∧
  ∀ (s : State) (w : Word) (es : List Event), s.phase = .idle → s.held = [] → s.events = .host (.writeCtrl 2 w) :: es →
    legal w = false →
    ∃ t, step s = .next t ∧ t.cmd = w ∧ t.phase = .halted ∧ t.err = .illegalCommand ∧ t.v = s.v ∧ t.hreq = none ∧
      t.hcount = s.hcount ∧ t.matched = false

/-- `exec` of a command that is not the one in progress changes nothing while one is, and nothing in HALTED. That `exec` leaves the
state as it is where the write of the command would be held is the model's choice (log entry 13, DEDUCED): the holding that 20_memory.md
R66 asks for is the port's, and stands in BusyHoldsHostAccess. In HALTED the write is ignored (60_exceptions.md R227). -/
def Obligations.OtherCommandWaits : Prop :=
  ∀ (i : Instr) (s : State),
    (s.phase = .hwait → exec i s = .next s) ∧ (s.phase = .halted → exec i s = .next s) ∧
    (s.phase = .exec → s.cmd ≠ encode i → exec i s = .next s)

/-- Between commands no rule reads the operand latches before the next acceptance writes them (10_state.md R42, R51; 93 row 8).
Whatever they hold in phase IDLE or HALTED, every step, of whichever agent, gives states that are equal but for them, and a step that
accepts a command gives the very same state, latches included; so does `exec` in phase IDLE. That the latches the accepted command
does not use agree too is the model's choice (log entry 6, DESIGN CHOICE): R42 leaves them unspecified, and the model gives them free
values drawn by a counter, which is the same in both states. -/
def Obligations.IdleLatchesUnread : Prop :=
  (∀ (s : State) (op : Opcode) (dst : Fin 8) (la lb lm : Value), s.phase = .idle ∨ s.phase = .halted →
    ∃ t u, step s = .next t ∧ step (s.withLatches op dst la lb lm) = .next u ∧ t.SameButLatches u ∧ (t.phase = .exec → u = t)) ∧
  ∀ (i : Instr) (s : State) (op : Opcode) (dst : Fin 8) (la lb lm : Value), s.phase = .idle →
    exec i (s.withLatches op dst la lb lm) = exec i s

/-! ### Subtractor and multiplier (42_subtractor.md, 43_multiplier.md) -/

/-- The value law of `SUBF` (R143), and its final borrow (R145). -/
def Obligations.SubtractorValueLaw : Prop :=
  ∀ (w : LimbWidth) (a b : Value),
    (toNative w (subf w a b) : Int) = ((toNative w a : Int) - (toNative w b : Int)) % 2 ^ 2048 ∧
    subBorrow w a b = if toNative w a < toNative w b then 1 else 0

/-- Result limb `i` depends only on limbs `0..i` (R147). -/
def Obligations.SubtractorLimbLocality : Prop :=
  ∀ (w : LimbWidth) (a b a' b' : Value) (i : Nat), i < w.count →
    (∀ j, j ≤ i → limbOf w a j = limbOf w a' j ∧ limbOf w b j = limbOf w b' j) →
    limbOf w (subf w a b) i = limbOf w (subf w a' b') i

/-- The value law of `MULF` (R164). -/
def Obligations.MultiplierValueLaw : Prop :=
  ∀ (w : LimbWidth) (a b : Value), toNative w (mulf w a b) = toNative w a * toNative w b % 2 ^ 2048

/-- The accumulator bound (R163): for limbs in range, every `p` of the inner loop fits in 2L bits and the carry it leaves in L bits; the
loop stores the low halves of those `p`. So the result limbs are in range after every pass, and `MULF` is commutative in value
(R166). -/
def Obligations.MultiplierLimbsAndCommutes : Prop :=
  (∀ (w : LimbWidth) (bj carry : Nat) (as rs : List Nat), bj < 2 ^ w.bits → carry < 2 ^ w.bits → (∀ a ∈ as, a < 2 ^ w.bits) →
    (∀ r ∈ rs, r < 2 ^ w.bits) →
    (∀ p ∈ rowProducts (2 ^ w.bits) bj as rs carry, p ≤ 2 ^ (2 * w.bits) - 1 ∧ p / 2 ^ w.bits ≤ 2 ^ w.bits - 1) ∧
    mulRow (2 ^ w.bits) bj as rs carry =
      (rowProducts (2 ^ w.bits) bj as rs carry).map (fun p => p % 2 ^ w.bits) ++ rs.drop as.length) ∧
  (∀ (w : LimbWidth) (as bs res : List Nat) (j : Nat), (∀ r ∈ res, r < 2 ^ w.bits) →
    ∀ x ∈ mulPasses (2 ^ w.bits) as bs j res, x < 2 ^ w.bits) ∧
  ∀ (w : LimbWidth) (a b : Value), (mulf w a b).toNat = (mulf w b a).toNat

/-! ### Modular reducer (44_reducer.md) -/

/-- A correct hint passes (R184): `MULF(q, m)` is exact, `SUBF` does not wrap, and `CHECK` is true. So the engine's step on a correct
response, of `MULMOD` or of any round of `RSAV`, does not enter the fatal state and writes no `VERIFICATION`. -/
def Obligations.CorrectHintPasses : Prop :=
  (∀ (w : LimbWidth) (a b m q r : Value), HintCorrect a b m q r →
    toNative w (mulf w q m) = q.toNat * m.toNat ∧ subBorrow w (mulf w a b) (mulf w q m) = 0 ∧ check w a b m q r = true) ∧
  ∀ (i : Instr) (s : State) (p : HintResp), s.phase = .exec → s.cmd = encode i → s.op = i.opcode → s.hresp = some p →
    (s.op = .mulmod ∧ HintCorrect s.la s.lb s.lm p.q p.r ∨
      s.op = .rsav ∧ HintCorrect s.acc (s.rsaOperand s.round) s.lm p.q p.r) →
    ∃ t, exec i s = .next t ∧ t.phase ≠ .halted ∧ (t.err = .verification → s.err = .verification)

/-- What `CHECK` establishes for an arbitrary hint (R186): the identity modulo `2^N`, exactly. So a hint that breaks the contract
can pass, and `MULMOD` then writes its `r`: `(q - 1, r + m)` beside the correct `(q, r)`, and for an odd modulus every `r` at all
with the quotient `(T - r) * m^(-1)`, `n` being any inverse of the modulus. -/
def Obligations.CheckOfArbitraryHint : Prop :=
  (∀ (w : LimbWidth) (a b m q r : Value), check w a b m q r = true ↔
    (r.toNat : Int) = ((truncProd a b : Int) - (q.toNat * m.toNat % 2 ^ 2048 : Nat)) % 2 ^ 2048) ∧
  (∀ (rd ra rb rm : RegField) (s : State) (p : HintResp), s.phase = .exec → s.cmd = encode (.mulmod rd ra rb rm) →
    s.op = .mulmod → s.hresp = some p → check s.width s.la s.lb s.lm p.q p.r = true →
    ∃ t, exec (.mulmod rd ra rb rm) s = .next t ∧ t.v = s.v.set s.dst.val p.r ∧ t.phase = .idle) ∧
  (∀ (w : LimbWidth) (a b m q r : Value), HintCorrect a b m q r → 1 ≤ q.toNat → r.toNat + m.toNat < 2 ^ 2048 →
    check w a b m (q - 1) (r + m) = true ∧ m.toNat ≤ (r + m).toNat) ∧
  (∀ m : Value, m.toNat % 2 = 1 → ∃ n : Value, m * n = 1) ∧
  ∀ (w : LimbWidth) (a b m n r : Value), m * n = 1 → check w a b m ((BitVec.ofNat 2048 (truncProd a b) - r) * n) r = true

/-! ### The commands, from acceptance to completion -/

/-- `ZERO` (41_limb_vector.md R120, R121): accepted, then completed with `zero()`, whose limbs are all 0, for every destination;
`STATUS` is then 0. -/
def Obligations.ZeroCompletes : Prop :=
  ∀ (rd : RegField) (s : State) (hd : rd.toNat < 8), s.phase = .idle →
    ∃ u t, exec (.zero rd) s = .next u ∧ u.busy = true ∧ exec (.zero rd) u = .next t ∧ t.v = s.v.set rd.toNat 0 ∧
      t.v[rd.toNat] = zeroValue t.width ∧ (∀ i, limbOf t.width (zeroValue t.width) i = 0) ∧ t.phase = .idle ∧ t.err = .none ∧
      t.matched = false ∧ t.hcount = 0 ∧ t.statusWord = 0 ∧ t.cmd = encode (.zero rd)

/-- `SUB` (42_subtractor.md R140, R143): the destination takes the difference modulo `2^N` of the values the sources held at
acceptance (10_state.md R33), whatever registers coincide. -/
def Obligations.SubCompletes : Prop :=
  ∀ (rd ra rb : RegField) (s : State) (hd : rd.toNat < 8) (ha : ra.toNat < 8) (hb : rb.toNat < 8), s.phase = .idle →
    ∃ u t, exec (.sub rd ra rb) s = .next u ∧ u.busy = true ∧ exec (.sub rd ra rb) u = .next t ∧
      t.v = s.v.set rd.toNat (s.v[ra.toNat] - s.v[rb.toNat]) ∧ t.phase = .idle ∧ t.err = .none ∧ t.matched = false ∧
      t.hcount = 0 ∧ t.cmd = encode (.sub rd ra rb)

/-- `MUL` (43_multiplier.md R160, R164): the destination takes the product modulo `2^N` of the values the sources held at
acceptance (10_state.md R33), whatever registers coincide. -/
def Obligations.MulCompletes : Prop :=
  ∀ (rd ra rb : RegField) (s : State) (hd : rd.toNat < 8) (ha : ra.toNat < 8) (hb : rb.toNat < 8), s.phase = .idle →
    ∃ u t, exec (.mul rd ra rb) s = .next u ∧ u.busy = true ∧ exec (.mul rd ra rb) u = .next t ∧
      t.v = s.v.set rd.toNat (s.v[ra.toNat] * s.v[rb.toNat]) ∧ t.phase = .idle ∧ t.err = .none ∧ t.matched = false ∧
      t.hcount = 0 ∧ t.cmd = encode (.mul rd ra rb)

/-- The engine's step of `MULMOD` before its hint (44_reducer.md R181; 20_memory.md R75): the request of round 1 with the latched
operands. -/
def Obligations.MulmodRequestsHint : Prop :=
  ∀ (rd ra rb rm : RegField) (s : State), s.phase = .exec → s.cmd = encode (.mulmod rd ra rb rm) → s.op = .mulmod →
    s.hresp = none → s.lm ≠ 0 →
    ∃ t, exec (.mulmod rd ra rb rm) s = .next t ∧ t.hreq = some ⟨1, s.la, s.lb, s.lm⟩ ∧ t.phase = .hwait ∧ t.round = 1 ∧
      t.hcount = s.hcount ∧ t.v = s.v ∧ t.matched = s.matched ∧ t.err = s.err

/-- The engine's step of `MULMOD` on a response that passes (44_reducer.md R180, R181, R183): the identity `a*b - q*m = r` modulo
`2^N` completes it with `r`, whatever the hint. Two things are the model's choices: that `HCOUNT` counts the response in this step, with the check,
and not at its receipt (log entry 5, DEDUCED), and that the response is then no longer held (log entry 26, DESIGN CHOICE). -/
def Obligations.MulmodCompletes : Prop :=
  ∀ (rd ra rb rm : RegField) (s : State) (p : HintResp), s.phase = .exec → s.cmd = encode (.mulmod rd ra rb rm) →
    s.op = .mulmod → s.hresp = some p → s.la * s.lb - p.q * s.lm = p.r →
    ∃ t, exec (.mulmod rd ra rb rm) s = .next t ∧ t.v = s.v.set s.dst.val p.r ∧ t.phase = .idle ∧ t.err = .none ∧
      t.matched = false ∧ t.hcount = s.hcount + 1 ∧ t.hresp = none ∧ t.cmd = s.cmd

/-- `MULMOD` and `RSAV` with a zero modulus (44_reducer.md R188; 45_rsa.md R202): fatal with `MODULUS_ZERO` at the engine's first
step, with no request, `HCOUNT` 0 and no register written. -/
def Obligations.ZeroModulusIsFatal : Prop :=
  ∀ (i : Instr) (rm : RegField) (hm : rm.toNat < 8) (s : State), i.WellFormed → i.rm = some rm → s.phase = .idle →
    s.hresp = none → s.v[rm.toNat] = 0 →
    ∃ u t, exec i s = .next u ∧ u.phase = .exec ∧ exec i u = .next t ∧ t.phase = .halted ∧ t.err = .modulusZero ∧
      t.hcount = 0 ∧ t.hreq = none ∧ t.v = s.v

/-- A response that fails the check (44_reducer.md R187; 45_rsa.md R206): `MULMOD` and `RSAV` enter the fatal state with
`VERIFICATION`, write no register, send nothing more, and `HCOUNT` holds the failing round. Under the invariant, which rules out
states where `HCOUNT` and `round` have parted. -/
def Obligations.FailedCheckIsFatal : Prop :=
  ∀ (i : Instr) (s : State) (p : HintResp), s.Inv → s.phase = .exec → decode s.cmd = .ok i → s.hresp = some p →
    (s.op = .mulmod ∧ s.la * s.lb - p.q * s.lm ≠ p.r) ∨
      (s.op = .rsav ∧ s.acc * (if s.round = 17 then s.lb else s.acc) - p.q * s.lm ≠ p.r) →
    ∃ t, exec i s = .next t ∧ t.phase = .halted ∧ t.err = .verification ∧ t.hcount.toNat = s.round ∧
      (s.op = .mulmod → t.hcount = 1) ∧ t.v = s.v ∧ t.hreq = none ∧ t.matched = false ∧ t.cmd = s.cmd

/-- A whole `MULMOD` under `HINT_CORRECT` (44_reducer.md R185): from IDLE, through the request and the response, it writes
`limbs(T mod m)`, which is below `m`. The host may read `CTRL` before, between and after those moves, as often as it likes
(70_reset_and_hazards.md R266). -/
def Obligations.MulmodValueUnderCorrectHint : Prop :=
  ∀ (rd ra rb rm : RegField) (s : State) (p : HintResp) (ms es : List Event) (hd : rd.toNat < 8) (ha : ra.toNat < 8)
    (hb : rb.toNat < 8) (hm : rm.toNat < 8), s.phase = .idle → s.held = [] → s.hresp = none → s.events = ms ++ es →
    withoutPolls ms = .host (.writeCtrl 2 (encode (.mulmod rd ra rb rm))) :: roundMoves [p] →
    HintCorrect s.v[ra.toNat] s.v[rb.toNat] s.v[rm.toNat] p.q p.r →
    ∃ t, core.run ms.length s = .next t ∧ (∀ r : Fin 8, r.val ≠ rd.toNat → t.reg r = s.reg r) ∧
      (t.v[rd.toNat]).toNat = truncProd s.v[ra.toNat] s.v[rb.toNat] % (s.v[rm.toNat]).toNat ∧
      (t.v[rd.toNat]).toNat < (s.v[rm.toNat]).toNat ∧ t.phase = .idle ∧ t.err = .none ∧ t.matched = false ∧ t.hcount = 1 ∧
      t.events = es

/-! ### RSA-65537 engine (45_rsa.md) -/

/-- The request of the next `RSAV` round (R201): `(k, acc, acc, m)` for k from 1 to 16 and `(17, acc, sig, m)`, the accumulator
being the signature before round 1. -/
def Obligations.RsavRequestsHint : Prop :=
  ∀ (rd ra rb rm : RegField) (s : State), s.phase = .exec → s.cmd = encode (.rsav rd ra rb rm) → s.op = .rsav →
    s.hresp = none → s.lm ≠ 0 → s.round < 17 →
    ∃ t, exec (.rsav rd ra rb rm) s = .next t ∧ t.phase = .hwait ∧ t.round = s.round + 1 ∧
      t.acc = (if s.round = 0 then s.lb else s.acc) ∧
      t.hreq = some ⟨s.round + 1, t.acc, if s.round = 16 then s.lb else t.acc, s.lm⟩ ∧ t.hcount = s.hcount ∧ t.v = s.v

/-- A response that passes its check in an `RSAV` round (R201; 44_reducer.md R181): the accumulator takes `r`, `HCOUNT` counts it,
and the command goes on. Two things are the model's choices: that `HCOUNT` counts the response in this step, with the check, and not at
its receipt (log entry 5, DEDUCED), and that the response is then no longer held (log entry 26, DESIGN CHOICE). -/
def Obligations.RsavRoundPasses : Prop :=
  ∀ (rd ra rb rm : RegField) (s : State) (p : HintResp), s.phase = .exec → s.cmd = encode (.rsav rd ra rb rm) → s.op = .rsav →
    s.hresp = some p → s.acc * (if s.round = 17 then s.lb else s.acc) - p.q * s.lm = p.r →
    ∃ t, exec (.rsav rd ra rb rm) s = .next t ∧ t.acc = p.r ∧ t.hcount = s.hcount + 1 ∧ t.hresp = none ∧ t.phase = .exec ∧
      t.round = s.round ∧ t.v = s.v

/-- The end of `RSAV` (R200, R203, R204, R205): the accumulator is compared with the latched message over all limbs and written to
the destination in both outcomes. -/
def Obligations.RsavCompletes : Prop :=
  ∀ (rd ra rb rm : RegField) (s : State), s.phase = .exec → s.cmd = encode (.rsav rd ra rb rm) → s.op = .rsav →
    s.hresp = none → s.round = 17 →
    ∃ t, exec (.rsav rd ra rb rm) s = .next t ∧ t.v = s.v.set s.dst.val s.acc ∧ t.phase = .idle ∧ t.hcount = s.hcount ∧
      t.matched = decide (s.acc = s.la) ∧ t.err = (if s.acc = s.la then .none else .sigMismatch)

/-- A whole `RSAV` on any responses that pass their checks (R201, R204, R209): 17 rounds, and the last `r` is written and compared. In
this statement and the next two the host may read `CTRL` before, between and after the moves of the command, as often as it likes
(70_reset_and_hazards.md R266). -/
def Obligations.RsavRunsSeventeenRounds : Prop :=
  ∀ (rd ra rb rm : RegField) (s : State) (ps : List HintResp) (ms es : List Event) (hd : rd.toNat < 8) (ha : ra.toNat < 8)
    (hb : rb.toNat < 8) (hm : rm.toNat < 8), s.phase = .idle → s.held = [] → s.hresp = none → ps.length = 17 →
    s.events = ms ++ es → withoutPolls ms = commandMoves (.rsav rd ra rb rm) ps → s.v[rm.toNat] ≠ 0 →
    RoundsPass s.width s.v[rb.toNat] s.v[rm.toNat] s.v[rb.toNat] 1 ps →
    ∃ t, core.run ms.length s = .next t ∧ t.v = s.v.set rd.toNat (lastRemainder s.v[rb.toNat] ps) ∧ t.phase = .idle ∧
      t.hcount = 17 ∧ t.matched = decide (lastRemainder s.v[rb.toNat] ps = s.v[ra.toNat]) ∧
      t.err = (if lastRemainder s.v[rb.toNat] ps = s.v[ra.toNat] then .none else .sigMismatch) ∧ t.events = es

/-- A whole `RSAV` under `HINT_CORRECT` in every round (R207): the destination takes the truncated exponentiation `x_17`, and the
command matches exactly when the message is `x_17`. -/
def Obligations.RsavComputesTruncatedPower : Prop :=
  ∀ (rd ra rb rm : RegField) (s : State) (ps : List HintResp) (ms es : List Event) (hd : rd.toNat < 8) (ha : ra.toNat < 8)
    (hb : rb.toNat < 8) (hm : rm.toNat < 8), s.phase = .idle → s.held = [] → s.hresp = none → ps.length = 17 →
    s.events = ms ++ es → withoutPolls ms = commandMoves (.rsav rd ra rb rm) ps →
    RoundsCorrect s.v[rb.toNat] s.v[rm.toNat] s.v[rb.toNat] 1 ps →
    ∃ t, core.run ms.length s = .next t ∧ t.phase = .idle ∧ t.hcount = 17 ∧
      (t.v[rd.toNat]).toNat = rsaResult (s.v[rb.toNat]).toNat (s.v[rm.toNat]).toNat ∧
      (t.matched = true ↔ rsaResult (s.v[rb.toNat]).toNat (s.v[rm.toNat]).toNat = (s.v[ra.toNat]).toNat) ∧
      (t.err = .none ↔ t.matched = true) ∧ (t.err = .sigMismatch ↔ t.matched = false) ∧
      (∀ k, 1 ≤ k → k ≤ 16 → rsaSquares (s.v[rb.toNat]).toNat (s.v[rm.toNat]).toNat k < (s.v[rm.toNat]).toNat) ∧
      rsaResult (s.v[rb.toNat]).toNat (s.v[rm.toNat]).toNat < (s.v[rm.toNat]).toNat ∧
      ((s.v[rm.toNat]).toNat ≤ (s.v[ra.toNat]).toNat → t.matched = false)

/-- The signature check (R208): for a signature below `2^1024` and a modulus of at most `2^1024` no product of R207 reaches
`2^N` and `x_17` is `sig^65537 mod m`, so that under `HINT_CORRECT` `RSAV` matches exactly when that number is the message. Outside
those bounds `x_17` can be another number. -/
def Obligations.RsavMatchesValidSignature : Prop :=
  (∀ s m : Nat, 0 < m → s < 2 ^ 1024 → m ≤ 2 ^ 1024 →
    (∀ k, k < 16 → rsaSquares s m k * rsaSquares s m k < 2 ^ 2048) ∧ rsaSquares s m 16 * s < 2 ^ 2048 ∧
      rsaResult s m = s ^ Config.rsaExponent % m) ∧
  (∃ s m : Nat, 0 < m ∧ s < 2 ^ 2048 ∧ m < 2 ^ 2048 ∧ rsaResult s m ≠ s ^ Config.rsaExponent % m) ∧
  ∀ (rd ra rb rm : RegField) (s : State) (ps : List HintResp) (ms es : List Event) (hd : rd.toNat < 8) (ha : ra.toNat < 8)
    (hb : rb.toNat < 8) (hm : rm.toNat < 8), s.phase = .idle → s.held = [] → s.hresp = none → ps.length = 17 →
    s.events = ms ++ es → withoutPolls ms = commandMoves (.rsav rd ra rb rm) ps →
    RoundsCorrect s.v[rb.toNat] s.v[rm.toNat] s.v[rb.toNat] 1 ps →
    (s.v[rb.toNat]).toNat < 2 ^ 1024 → (s.v[rm.toNat]).toNat ≤ 2 ^ 1024 →
    ∃ t, core.run ms.length s = .next t ∧ t.phase = .idle ∧
      (t.matched = true ↔ (s.v[rb.toNat]).toNat ^ Config.rsaExponent % (s.v[rm.toNat]).toNat = (s.v[ra.toNat]).toNat)

/-! ### The fatal state (60_exceptions.md) -/

/-- Fatal entry (R226): the update from a state that is not HALTED, and the first cause kept in HALTED. -/
def Obligations.FatalEntry : Prop :=
  ∀ (s : State) (code : ErrCode),
    (s.phase = .halted → s.fatal code = s) ∧
    (s.phase ≠ .halted → (s.fatal code).phase = .halted ∧ (s.fatal code).hreq = none ∧ (s.fatal code).busy = false ∧
      (s.fatal code).hwaiting = false ∧ (s.fatal code).matched = false ∧ (s.fatal code).fatalBit = true ∧
      (s.fatal code).err = code ∧ (s.fatal code).hcount = s.hcount ∧ (s.fatal code).cmd = s.cmd ∧ (s.fatal code).v = s.v)

/-- What each input does in the fatal state (R227): writes are ignored, reads work, unmapped reads give 0, hints are discarded,
no transaction the host issues waits for the engine, and only reset leaves it. One that is still waiting from before takes effect at
the port's turn, and a later one waits behind it until then: that the port's turn is a move of its own, and that with no move to come
the block's own turn is the port's where one waits, are the model's choices (log entries 3 and 4, DESIGN CHOICE). -/
def Obligations.FatalStateIgnoresWrites : Prop :=
  ∀ s : State, s.phase = .halted →
    (∀ w, s.performHost (.writeCtrl 2 w) = .next s) ∧ (∀ a d, s.performHost (.writeVal a d) = .next s) ∧
    (∀ a, a < 8 * s.width.count → s.performHost (.readVal a) =
      .next (s.respond (.readVal a) (BitVec.ofNat 64 (limbOf s.width (s.reg (s.valReg a)) (a % s.width.count))))) ∧
    s.performHost (.readCtrl 0) = .next (s.respond (.readCtrl 0) ((configWord s.width).setWidth 64)) ∧
    s.performHost (.readCtrl 1) = .next (s.respond (.readCtrl 1) (s.statusWord.setWidth 64)) ∧
    s.performHost (.readCtrl 2) = .next (s.respond (.readCtrl 2) (s.cmd.setWidth 64)) ∧
    (∀ a, 8 * s.width.count ≤ a → s.performHost (.readVal a) = .next (s.respond (.readVal a) 0)) ∧
    (∀ a, 3 ≤ a → s.performHost (.readCtrl a) = .next (s.respond (.readCtrl a) 0)) ∧
    (∀ a d, 3 ≤ a → s.performHost (.writeCtrl a d) = .next s) ∧ (∀ p, s.hintResponse p = s) ∧
    (∀ t, s.interlocked t = false) ∧ (∀ t, s.held = [] → s.issueHost t = s.performHost t) ∧
    (∀ h hs, s.held = h :: hs → s.releaseTurn = (s.setHeld hs).performHost h ∧ s.ownTurn = s.releaseTurn) ∧ (∀ es, s.events = .reset :: es → ∃ t, step s = .next t ∧ t.phase = .idle) ∧
    ∀ t, (∀ es, s.events ≠ .reset :: es) → step s = .next t → t.phase = .halted

/-- Only reset leaves the fatal state (R227, R228, R229): every other move keeps every piece of the block's state, and changes at most
the port's waiting transactions, the record of reads and the moves to come. For two kinds of state that is the model's choice and not
R227's: the operand latches, which may hold any value between commands and keep theirs here (log entry 6, DESIGN CHOICE), and `acc`,
`round` and `hresp`, of which no rule speaks here (log entry 10, DEDUCED). -/
def Obligations.FatalStateSticky : Prop :=
  ∀ s t : State, s.phase = .halted → (∀ es, s.events ≠ .reset :: es) → step s = .next t →
    t = { s with held := t.held, reads := t.reads, events := t.events } ∧
    t.phase = .halted ∧ t.err = s.err ∧ t.v = s.v ∧ t.cmd = s.cmd ∧ t.hcount = s.hcount ∧ t.matched = s.matched

/-- A run that ends outside the fatal state and holds no reset was clean throughout (R229). -/
def Obligations.CleanEndMeansCleanRun : Prop :=
  ∀ (n : Nat) (s t : State), Event.reset ∉ s.events → core.run n s = .next t → ¬ t.Fatal → CleanRun n s

/-! ### Host port (20_memory.md) -/

/-- The interlock (R66): while a command is in progress every transaction but a `CTRL` read is held, and changes nothing else; with
none waiting, a `CTRL` read takes effect at once. -/
def Obligations.BusyHoldsHostAccess : Prop :=
  ∀ (s : State) (t : HostTxn) (es : List Event), s.phase = .exec ∨ s.phase = .hwait → s.events = .host t :: es →
    ((∀ a, t ≠ .readCtrl a) → step s = .next ((s.setEvents es).hold t)) ∧
    (∀ a, t = .readCtrl a → s.held = [] → step s = (s.setEvents es).performHost t)

/-- Issue order (R66, R70): behind a waiting transaction every later one waits, and the oldest takes effect once no command is in
progress. Two things in it are the model's choices: that a `CTRL` read too waits behind a waiting transaction (log entry 11, DEDUCED,
from R70 against R66's "never wait"), and that a transaction once held waits until a move of the port, in phases IDLE and HALTED too (log
entry 3, DESIGN CHOICE). -/
def Obligations.WaitingAccessesKeepOrder : Prop :=
  (∀ (s : State) (h t : HostTxn) (hs : List HostTxn) (es : List Event), s.held = h :: hs → s.events = .host t :: es →
    ∃ u, step s = .next u ∧ u = (s.setEvents es).hold t ∧ u.held = h :: (hs ++ [t])) ∧
  (∀ (s : State) (h : HostTxn) (hs : List HostTxn) (es : List Event), s.held = h :: hs → s.events = .release :: es →
    s.busy = false → step s = ((s.setEvents es).setHeld hs).performHost h) ∧
  (∀ (s : State) (h : HostTxn) (hs : List HostTxn) (es : List Event), s.held = h :: hs → s.events = .release :: es →
    s.busy = true → (∀ a, h ≠ .readCtrl a) → step s = .next (s.setEvents es))

/-- A read of `VAL` at `r*W + i` returns limb `i` of register `r` and has no side effect (R63, R65). -/
def Obligations.ValReadReturnsLimb : Prop :=
  ∀ (s : State) (r i : Nat) (hr : r < 8), i < s.width.count →
    s.performHost (.readVal (r * s.width.count + i)) =
        .next (s.respond (.readVal (r * s.width.count + i)) (BitVec.ofNat 64 (limbOf s.width s.v[r] i))) ∧
      (BitVec.ofNat 64 (limbOf s.width s.v[r] i)).toNat = limbOf s.width s.v[r] i

/-- A write of `VAL` at `r*W + i` sets limb `i` of register `r`; no other limb and no other state changes, and in the fatal state
it is ignored (R63, R67). -/
def Obligations.ValWriteSetsLimb : Prop :=
  ∀ (s : State) (r i : Nat) (d : BitVec 64) (hr : r < 8), i < s.width.count → d.toNat < 2 ^ s.width.bits →
    (s.phase ≠ .halted → ∃ x : Value,
      s.performHost (.writeVal (r * s.width.count + i) d) = .next (s.setReg ⟨r, hr⟩ x) ∧ limbOf s.width x i = d.toNat ∧
      ∀ j, j < s.width.count → j ≠ i → limbOf s.width x j = limbOf s.width s.v[r] j) ∧
    (s.phase = .halted → s.performHost (.writeVal (r * s.width.count + i) d) = .next s)

/-- Reads and writes of `CTRL` (R62, R68): the three registers, no side effect, writes of `CONFIG` and `STATUS` ignored. -/
def Obligations.CtrlAccess : Prop :=
  ∀ (s : State) (d : Word),
    s.performHost (.readCtrl 0) = .next (s.respond (.readCtrl 0) ((configWord s.width).setWidth 64)) ∧
    s.performHost (.readCtrl 1) = .next (s.respond (.readCtrl 1) (s.statusWord.setWidth 64)) ∧
    s.performHost (.readCtrl 2) = .next (s.respond (.readCtrl 2) (s.cmd.setWidth 64)) ∧
    s.performHost (.writeCtrl 0 d) = .next s ∧ s.performHost (.writeCtrl 1 d) = .next s ∧
    s.performHost (.writeCtrl 2 d) = s.writeCmd d

/-- Address errors (R64): a read returns 0, a write changes no register, and both are fatal with `ADDRESS`; in the fatal state the
code stays. -/
def Obligations.UnmappedAccessIsFatal : Prop :=
  ∀ (s : State) (t : HostTxn),
    ((∃ a, 8 * s.width.count ≤ a ∧ (t = .readVal a ∨ ∃ d, t = .writeVal a d)) ∨
      ∃ a, 3 ≤ a ∧ (t = .readCtrl a ∨ ∃ d, t = .writeCtrl a d)) →
    ∃ u, s.performHost t = .next u ∧ u.phase = .halted ∧ u.v = s.v ∧ u.cmd = s.cmd ∧ u.hcount = s.hcount ∧
      (s.phase ≠ .halted → u.err = .address ∧ u.hreq = none ∧ u.matched = false) ∧ (s.phase = .halted → u.err = s.err) ∧
      (∀ a, t = .readVal a ∨ t = .readCtrl a → u.reads = s.reads ++ [⟨t, 0⟩]) ∧
      (∀ a d e, t = .writeVal a d ∨ t = .writeCtrl a e → u.reads = s.reads)

/-! ### Hint port (20_memory.md) -/

/-- A hint response. To the outstanding request (R77): back to EXEC with the response, `HCOUNT` not yet counting it (log entry 5).
With no request outstanding (R81): discarded without effect. -/
def Obligations.HintResponseTakenOrDiscarded : Prop :=
  ∀ (s : State) (p : HintResp) (es : List Event), s.events = .hint p :: es →
    (s.phase = .hwait → ∃ t, step s = .next t ∧ t.phase = .exec ∧ t.hreq = none ∧ t.hresp = some p ∧ t.hcount = s.hcount ∧
      t.v = s.v ∧ t.round = s.round ∧ t.acc = s.acc ∧ t.cmd = s.cmd) ∧
    (s.phase ≠ .hwait → step s = .next (s.setEvents es))

/-- No timeout (R80): with no response and no reset to come, and no fatal host access, the engine stays in HWAIT for ever, and the
registers, `CMD` and the request stay as they are. -/
def Obligations.UnansweredRequestHangs : Prop :=
  ∀ (n : Nat) (s : State), s.Hung → (∀ a, Event.host (.readCtrl a) ∈ s.events → a < 3) →
    (∀ a, HostTxn.readCtrl a ∈ s.held → a < 3) →
    ∃ t, core.run n s = .next t ∧ t.phase = .hwait ∧ t.v = s.v ∧ t.cmd = s.cmd ∧ t.hreq = s.hreq ∧ t.hcount = s.hcount ∧
      t.err = s.err ∧ t.matched = s.matched

/-! ### Frames and whole-machine rules -/

/-- Frame of `ZERO`, `SUB` and `MUL` (10_state.md R32, R37, R40). Its last clause, that `exec` changes nothing in HWAIT and HALTED, is
the model's choice (log entry 13, DEDUCED). Their destination is the latched `dst`, written only in the
engine's step. Acceptance changes `CMD`, `STATUS`, `round` and the latches; the engine's step changes the destination, the phase,
`ERR`, `MATCH` and the latches. -/
def Obligations.RegisterCommandFrame : Prop :=
  ∀ (i : Instr) (s t : State), i.WellFormed → i.opcode = .zero ∨ i.opcode = .sub ∨ i.opcode = .mul → exec i s = .next t →
    (∀ r : Fin 8, s.phase ≠ .exec ∨ r ≠ s.dst → t.reg r = s.reg r) ∧
    (∀ a, s.phase ≠ .exec ∨ s.valReg a ≠ s.dst → t.readVal a = s.readVal a) ∧
    t.width = s.width ∧ t.acc = s.acc ∧ t.hreq = s.hreq ∧ t.hresp = s.hresp ∧ t.held = s.held ∧ t.events = s.events ∧
    t.reads = s.reads ∧ (s.phase ≠ .idle → t.cmd = s.cmd ∧ t.hcount = s.hcount ∧ t.round = s.round) ∧
    (s.phase ≠ .idle → s.phase ≠ .exec → t = s)

/-- Frame of `MULMOD` and `RSAV` (10_state.md R32, R37). Its last clause, that `exec` changes nothing in HWAIT and HALTED, is the
model's choice (log entry 13, DEDUCED). It reads as that of the register commands, but their engine steps also change the
hint exchange, `HCOUNT` and `round`, and write the destination only where they complete. `MULMOD` leaves the RSA accumulator
alone. -/
def Obligations.HintCommandFrame : Prop :=
  ∀ (i : Instr) (s t : State), i.WellFormed → i.opcode = .mulmod ∨ i.opcode = .rsav → exec i s = .next t →
    (∀ r : Fin 8, s.phase ≠ .exec ∨ r ≠ s.dst ∨ t.phase ≠ .idle → t.reg r = s.reg r) ∧
    (∀ a, s.phase ≠ .exec ∨ s.valReg a ≠ s.dst ∨ t.phase ≠ .idle → t.readVal a = s.readVal a) ∧
    t.width = s.width ∧ t.held = s.held ∧ t.events = s.events ∧ t.reads = s.reads ∧ (s.phase ≠ .idle → t.cmd = s.cmd) ∧
    (i.opcode = .mulmod → t.acc = s.acc) ∧
    (s.phase ≠ .exec → t.acc = s.acc ∧ t.hreq = s.hreq ∧ t.hresp = s.hresp) ∧
    (s.phase ≠ .idle → s.phase ≠ .exec → t = s)

/-- The only ways a value register changes (10_state.md R32, R33, R46; 60_exceptions.md R225): reset; a host write of a mapped
`VAL` address with no command in progress and outside the fatal state, either issued now with none waiting, or the oldest waiting one at
the port's turn (its own move or the block's own turn, which are the model's choices, log entries 3 and 4); or the completion of the command in progress, which writes its
destination alone. A step into the fatal state changes none. -/
def Obligations.RegistersChangeOnlyByRule : Prop :=
  ∀ s t : State, step s = .next t →
    (t.v = s.v ∨ (∃ es, s.events = .reset :: es) ∨
      (∃ a d, a < 8 * s.width.count ∧ s.phase ≠ .halted ∧ s.busy = false ∧ t.phase = s.phase ∧ t.v = (s.writeVal a d).v ∧
        (s.held = [] ∧ (∃ es, s.events = .host (.writeVal a d) :: es) ∨
          (∃ hs, s.held = .writeVal a d :: hs) ∧ (s.events = [] ∨ ∃ es, s.events = .release :: es))) ∨
      (s.phase = .exec ∧ t.phase = .idle ∧ ∃ x, t.v = s.v.set s.dst.val x)) ∧
    (t.phase = .halted → t.v = s.v)

/-- `HCOUNT` at the end of a command (10_state.md R37; 60_exceptions.md R221): 0, 1 or 17 at completion, the failing round after
`VERIFICATION`, 0 after `MODULUS_ZERO`. Under the invariant. -/
def Obligations.HcountAtCommandEnd : Prop :=
  ∀ s t : State, s.Inv → s.phase = .exec → s.engineTurn = .next t →
    (t.phase = .idle → t.hcount.toNat = match s.op with
      | .zero => 0
      | .sub => 0
      | .mul => 0
      | .mulmod => 1
      | .rsav => 17) ∧
    (t.phase = .halted → t.err = .verification ∧ t.hcount.toNat = s.round ∨ t.err = .modulusZero ∧ t.hcount = 0)

/-! ### Host software (41_limb_vector.md) -/

/-- `toNative` and `fromNative` (R122, R123, R127): inverse on the representable numbers, `RangeError` on the others. -/
def Obligations.NativeRoundTrip : Prop :=
  ∀ w : LimbWidth,
    (∀ x : Value, toNative w x = x.toNat ∧ fromNative w (toNative w x : Int) = .ok x) ∧
    (∀ n : Int, n < 0 ∨ 2 ^ 2048 ≤ n → fromNative w n = .error .rangeError) ∧
    ∀ n : Int, 0 ≤ n → n < 2 ^ 2048 → ∃ x, fromNative w n = .ok x ∧ (toNative w x : Int) = n

/-- `fromHex` (R124, R125): a string of at most 512 hex digits gives the value of its number; every other string is a
`FormatError`. -/
def Obligations.FromHexReadsNumber : Prop :=
  ∀ (w : LimbWidth) (d : List Char),
    (∀ ds, hexDigits d = some ds → ds.length ≤ 512 →
      fromHex w ('0' :: 'x' :: d) = .ok (BitVec.ofNat 2048 (ds.foldl (fun n c => 16 * n + c) 0))) ∧
    (∀ ds, hexDigits d = some ds → 512 < ds.length → fromHex w ('0' :: 'x' :: d) = .error .formatError) ∧
    (hexDigits d = none → fromHex w ('0' :: 'x' :: d) = .error .formatError) ∧
    ((∀ e, d ≠ '0' :: 'x' :: e) → fromHex w d = .error .formatError)

/-! ### Pseudo-instructions (30_encoding.md R101) -/

/-- `ldv`, `stv` and `wait` (R101), with no command in progress and none waiting for the first two. The W writes of `ldv` set the
register; the W answers of `stv` form its value and nothing but the record of reads changes. `wait` ends only after a read that shows
`BUSY = 0`, ends at its first read if no command is in progress, and reads again after one that shows `BUSY = 1`. How the other agents'
moves fall between the reads is the model's own list (log entry 19). -/
def Obligations.PseudoInstructions : Prop :=
  (∀ (s : State) (r : RegField) (x : Value) (es : List Event) (hr : r.toNat < 8), s.phase = .idle → s.held = [] →
    s.events = (AsmLine.ldv r x).moves s.width ++ es → core.run s.width.count s = .next { s with v := s.v.set r.toNat x, events := es }) ∧
  (∀ (s : State) (r : RegField) (es : List Event) (hr : r.toNat < 8), s.phase = .idle ∨ s.phase = .halted → s.held = [] →
    s.events = (AsmLine.stv r).moves s.width ++ es →
    ∃ rs, core.run s.width.count s = .next { s with reads := s.reads ++ rs, events := es } ∧ rs.length = s.width.count ∧
      stvValue s.width rs = s.v[r.toNat]) ∧
  (∀ (ks : List Nat) (s t : State), hostWait ks s = .next (true, t) → t.busy = false ∧ t.held = [] ∧
    ∃ rs, t.reads = rs ++ [⟨.readCtrl 1, t.statusWord.setWidth 64⟩]) ∧
  (∀ (k : Nat) (ks : List Nat) (s : State), s.held = [] → s.busy = false →
    hostWait (k :: ks) s = .next (true, s.respond (.readCtrl 1) (s.statusWord.setWidth 64))) ∧
  ∀ (k : Nat) (ks : List Nat) (s u : State), s.held = [] → s.busy = true →
    core.run k (s.respond (.readCtrl 1) (s.statusWord.setWidth 64)) = .next u → hostWait (k :: ks) s = hostWait ks u

/-! ### Commands as syntax -/

/-- `exec` of an ill-formed command has the effect of its word, which is illegal: latched, then fatal with `ILLEGAL_COMMAND`. That
`exec` has a meaning on such syntax at all is the model's choice (log entry 20, DESIGN CHOICE): the block sees only words, and the
decoder gives no such command. -/
def Obligations.IllFormedCommandIsFatal : Prop :=
  ∀ (i : Instr) (s : State), ¬ i.WellFormed → s.phase = .idle → legal (encode i) = false ∧
    ∃ t, exec i s = .next t ∧ t.cmd = encode i ∧ t.phase = .halted ∧ t.err = .illegalCommand ∧ t.v = s.v ∧
      t.hcount = s.hcount
end

