-- ==== Sys2Proof/Laws/Limb.lean ====
section
/-!
SUPPORT. Small facts about limb lists (00_scope.md R14): lengths, digit sums of `n` limbs, and one limb of a digit sum.
-/

namespace Sys2Proof.Machine

theorem bits_mul_count (w : LimbWidth) : w.bits * w.count = 2048 := by cases w <;> rfl

theorem bits_pos (w : LimbWidth) : 0 < w.bits := by cases w <;> decide

theorem count_pos (w : LimbWidth) : 0 < w.count := by cases w <;> decide

theorem base_pos (w : LimbWidth) : 0 < 2 ^ w.bits := Nat.two_pow_pos _

@[simp] theorem limbs_length (w : LimbWidth) (x : Value) : (limbs w x).length = w.count := by simp [limbs]

@[simp] theorem natLimbs_length (w : LimbWidth) (x : Nat) : (natLimbs w x).length = w.count := by simp [natLimbs]

theorem limbs_eq_natLimbs (w : LimbWidth) (x : Value) : limbs w x = natLimbs w x.toNat := rfl

theorem limbOf_lt (w : LimbWidth) (x : Value) (i : Nat) : limbOf w x i < 2 ^ w.bits := Nat.mod_lt _ (base_pos w)

theorem natLimbs_lt (w : LimbWidth) (x : Nat) : ∀ a ∈ natLimbs w x, a < 2 ^ w.bits := by
  intro a ha
  obtain ⟨i, -, rfl⟩ := List.mem_map.mp ha
  exact Nat.mod_lt _ (base_pos w)

theorem limbs_getElem (w : LimbWidth) (x : Value) (i : Nat) (h : i < (limbs w x).length) : (limbs w x)[i] = limbOf w x i := by
  simp [limbs]

theorem limbs_getElem? (w : LimbWidth) (x : Value) (i : Nat) (h : i < w.count) : (limbs w x)[i]? = some (limbOf w x i) := by
  simp [limbs, h]

/-- The digit sum of the first `n` base-`2^L` digits of a number. -/
theorem valOf_digits (w : LimbWidth) (n : Nat) :
    ∀ x : Nat, valOf w ((List.range n).map fun i => x / 2 ^ (w.bits * i) % 2 ^ w.bits) = x % 2 ^ (w.bits * n) := by
  induction n with
  | zero => intro x; simp [valOf, Nat.mod_one]
  | succ n ih =>
    intro x
    have hshift : ((List.range n).map fun i => x / 2 ^ (w.bits * (i + 1)) % 2 ^ w.bits) =
        (List.range n).map fun i => x / 2 ^ w.bits / 2 ^ (w.bits * i) % 2 ^ w.bits := by
      refine List.map_congr_left fun i _ => ?_
      rw [Nat.div_div_eq_div_mul, ← Nat.pow_add, Nat.mul_add, Nat.mul_one, Nat.add_comm]
    rw [List.range_succ_eq_map, List.map_cons, List.map_map]
    show valOf w (_ :: (List.range n).map fun i => x / 2 ^ (w.bits * (i + 1)) % 2 ^ w.bits) = _
    rw [hshift, valOf, ih, Nat.mul_zero, Nat.pow_zero, Nat.div_one, Nat.mul_add, Nat.mul_one, Nat.add_comm (w.bits * n),
      Nat.pow_add, Nat.mod_mul]

theorem valOf_natLimbs (w : LimbWidth) (x : Nat) : valOf w (natLimbs w x) = x % 2 ^ (w.bits * w.count) := valOf_digits w _ x

/-- A digit sum of digits in range is below `2^(L*n)`. -/
theorem valOf_lt (w : LimbWidth) : ∀ xs : List Nat, (∀ a ∈ xs, a < 2 ^ w.bits) → valOf w xs < 2 ^ (w.bits * xs.length)
  | [], _ => by simp [valOf]
  | x :: xs, h => by
    have hx := h x (by simp)
    have hxs := valOf_lt w xs fun a ha => h a (by simp [ha])
    rw [valOf, List.length_cons, Nat.mul_add, Nat.mul_one, Nat.add_comm (w.bits * _), Nat.pow_add]
    calc x + 2 ^ w.bits * valOf w xs < 2 ^ w.bits + 2 ^ w.bits * valOf w xs := by omega
      _ = 2 ^ w.bits * (valOf w xs + 1) := by ring
      _ ≤ 2 ^ w.bits * 2 ^ (w.bits * xs.length) := Nat.mul_le_mul_left _ hxs

/-- Digit `i` of a digit sum of digits in range. -/
theorem valOf_digit (w : LimbWidth) : ∀ (xs : List Nat) (i : Nat), (∀ a ∈ xs, a < 2 ^ w.bits) → (h : i < xs.length) →
    valOf w xs / 2 ^ (w.bits * i) % 2 ^ w.bits = xs[i]
  | x :: xs, 0, hr, _ => by
    have hx := hr x (by simp)
    simp [valOf, Nat.mod_eq_of_lt hx]
  | x :: xs, i + 1, hr, h => by
    have hx := hr x (by simp)
    have ih := valOf_digit w xs i (fun a ha => hr a (by simp [ha])) (by simpa using h)
    rw [valOf, Nat.mul_add, Nat.mul_one, Nat.add_comm (w.bits * i), Nat.pow_add, ← Nat.div_div_eq_div_mul,
      Nat.add_mul_div_left _ _ (base_pos w), Nat.div_eq_of_lt hx, Nat.zero_add, ih]
    rfl

end Sys2Proof.Machine
end

