-- ==== Sys2Proof/Laws/Arith.lean ====
section
/-!
SUPPORT. What the limb loops of the subtractor and the multiplier do to digit sums (42_subtractor.md R143, 43_multiplier.md R164,
each by the induction the rule names), for lists of any length.
-/

namespace Sys2Proof.Machine

/-! ### The subtractor's loop -/

/-- The invariant of 42_subtractor.md R143's induction, with the result limbs' range (R146) and length. -/
theorem subLimbs_spec (w : LimbWidth) : ∀ (as bs : List Nat) (borrow : Nat), as.length = bs.length → borrow ≤ 1 →
    (∀ a ∈ as, a < 2 ^ w.bits) → (∀ b ∈ bs, b < 2 ^ w.bits) →
    valOf w (subLimbs (2 ^ w.bits) as bs borrow).1 + valOf w bs + borrow =
        valOf w as + 2 ^ (w.bits * as.length) * (subLimbs (2 ^ w.bits) as bs borrow).2 ∧
      (subLimbs (2 ^ w.bits) as bs borrow).2 ≤ 1 ∧ (subLimbs (2 ^ w.bits) as bs borrow).1.length = as.length ∧
      ∀ r ∈ (subLimbs (2 ^ w.bits) as bs borrow).1, r < 2 ^ w.bits
  | [], [], borrow, _, hb, _, _ => by simp [subLimbs, valOf, hb]
  | a :: as, b :: bs, borrow, hl, hb, ha, hbs => by
    have hA := ha a (by simp)
    have hB := hbs b (by simp)
    have hpow : 2 ^ (w.bits * (as.length + 1)) = 2 ^ w.bits * 2 ^ (w.bits * as.length) := by
      rw [Nat.mul_add, Nat.mul_one, Nat.add_comm, Nat.pow_add]
    obtain ⟨hv, hle, hlen, hr⟩ := subLimbs_spec w as bs (if a < b + borrow then 1 else 0) (by simpa using hl)
      (by split <;> omega) (fun x hx => ha x (by simp [hx])) (fun x hx => hbs x (by simp [hx]))
    simp only [subLimbs, valOf, List.length_cons, hpow]
    refine ⟨?_, hle, by simp [hlen], ?_⟩
    · generalize (subLimbs (2 ^ w.bits) as bs (if a < b + borrow then 1 else 0)) = res at hv ⊢
      generalize 2 ^ (w.bits * as.length) = P at hv ⊢
      generalize 2 ^ w.bits = base at *
      split at hv
      · next h =>
        rw [if_pos h]
        have : base * (valOf w res.1 + valOf w bs + 1) = base * (valOf w as + P * res.2) := by rw [hv]
        have e1 : base * (P * res.2) = base * P * res.2 := by ring
        have e2 : base * (valOf w res.1 + valOf w bs + 1) = base * valOf w res.1 + base * valOf w bs + base := by ring
        have e3 : base * (valOf w as + P * res.2) = base * valOf w as + base * P * res.2 := by ring
        omega
      · next h =>
        rw [if_neg h]
        have : base * (valOf w res.1 + valOf w bs + 0) = base * (valOf w as + P * res.2) := by rw [hv]
        have e2 : base * (valOf w res.1 + valOf w bs + 0) = base * valOf w res.1 + base * valOf w bs := by ring
        have e3 : base * (valOf w as + P * res.2) = base * valOf w as + base * P * res.2 := by ring
        omega
    · intro r hmem
      rcases List.mem_cons.mp hmem with rfl | hmem
      · split <;> omega
      · exact hr r hmem

/-! ### The multiplier's loops -/

theorem mulRow_length (base bj : Nat) : ∀ (as rs : List Nat) (carry : Nat), (mulRow base bj as rs carry).length = rs.length
  | [], rs, _ => by simp [mulRow]
  | _ :: _, [], _ => by simp [mulRow]
  | a :: as, r :: rs, carry => by simp [mulRow, mulRow_length base bj as rs]

/-- Every limb the inner loop leaves is in range (43_multiplier.md R166). -/
theorem mulRow_lt (base bj : Nat) (hbase : 0 < base) : ∀ (as rs : List Nat) (carry : Nat), (∀ r ∈ rs, r < base) →
    ∀ x ∈ mulRow base bj as rs carry, x < base
  | [], rs, _, h => by simpa [mulRow] using h
  | _ :: _, [], _, _ => by simp [mulRow]
  | a :: as, r :: rs, carry, h => by
    intro x hx
    simp only [mulRow] at hx
    rcases List.mem_cons.mp hx with rfl | hx
    · exact Nat.mod_lt _ hbase
    · exact mulRow_lt base bj hbase as rs _ (fun y hy => h y (by simp [hy])) x hx

/-- One pass adds `bj * a` to the result's tail, modulo the tail's range (43_multiplier.md R164, R165). -/
theorem mulRow_val (w : LimbWidth) (bj : Nat) : ∀ (as rs : List Nat) (carry : Nat), rs.length ≤ as.length →
    valOf w (mulRow (2 ^ w.bits) bj as rs carry) ≡ valOf w rs + bj * valOf w as + carry [MOD 2 ^ (w.bits * rs.length)]
  | as, [], carry, _ => by
    cases as <;> simp [mulRow, valOf, Nat.ModEq, Nat.mod_one]
  | [], _ :: _, _, h => by simp at h
  | a :: as, r :: rs, carry, h => by
    have ih := mulRow_val w bj as rs ((a * bj + r + carry) / 2 ^ w.bits) (by simpa using h)
    have hpow : 2 ^ (w.bits * (rs.length + 1)) = 2 ^ w.bits * 2 ^ (w.bits * rs.length) := by
      rw [Nat.mul_add, Nat.mul_one, Nat.add_comm, Nat.pow_add]
    simp only [mulRow, valOf, List.length_cons, hpow]
    have h1 := (ih.mul_left' (2 ^ w.bits)).add_left ((a * bj + r + carry) % 2 ^ w.bits)
    refine h1.trans (congrArg (· % _) ?_)
    have h2 := Nat.mod_add_div (a * bj + r + carry) (2 ^ w.bits)
    generalize (a * bj + r + carry) / 2 ^ w.bits = d at *
    generalize (a * bj + r + carry) % 2 ^ w.bits = e at *
    generalize 2 ^ w.bits = base at *
    linear_combination h2

theorem valOf_append (w : LimbWidth) : ∀ xs ys : List Nat, valOf w (xs ++ ys) = valOf w xs + 2 ^ (w.bits * xs.length) * valOf w ys
  | [], ys => by simp [valOf]
  | x :: xs, ys => by
    rw [List.cons_append, valOf, valOf_append w xs ys, valOf, List.length_cons, Nat.mul_add w.bits, Nat.mul_one,
      Nat.add_comm (w.bits * _), Nat.pow_add]
    ring

theorem mulPasses_length (base : Nat) (as : List Nat) : ∀ (bs : List Nat) (j : Nat) (res : List Nat),
    (mulPasses base as bs j res).length = res.length
  | [], _, _ => rfl
  | bj :: bs, j, res => by
    rw [mulPasses, mulPasses_length base as bs]
    simp only [List.length_append, mulRow_length, List.length_take, List.length_drop]
    omega

/-- Every limb is in range after every pass (43_multiplier.md R166). -/
theorem mulPasses_lt (base : Nat) (hbase : 0 < base) (as : List Nat) : ∀ (bs : List Nat) (j : Nat) (res : List Nat),
    (∀ r ∈ res, r < base) → ∀ x ∈ mulPasses base as bs j res, x < base
  | [], _, _, h => h
  | bj :: bs, j, res, h => by
    refine mulPasses_lt base hbase as bs (j + 1) _ fun r hr => ?_
    rcases List.mem_append.mp hr with hr | hr
    · exact h r (List.mem_of_mem_take hr)
    · exact mulRow_lt base bj hbase as _ 0 (fun y hy => h y (List.mem_of_mem_drop hy)) r hr

/-- The passes from limb `j` on add `a * (b from limb j on)` to the result, modulo `2^(L*W)` (43_multiplier.md R164). -/
theorem mulPasses_val (w : LimbWidth) (as : List Nat) : ∀ (bs : List Nat) (j : Nat) (res : List Nat), res.length ≤ as.length →
    j + bs.length = res.length →
    valOf w (mulPasses (2 ^ w.bits) as bs j res) ≡ valOf w res + valOf w as * (2 ^ (w.bits * j) * valOf w bs)
      [MOD 2 ^ (w.bits * res.length)]
  | [], j, res, _, _ => by simp [mulPasses, valOf, Nat.ModEq]
  | bj :: bs, j, res, hl, hj => by
    have hlen : (res.take j ++ mulRow (2 ^ w.bits) bj as (res.drop j) 0).length = res.length := by
      simp only [List.length_append, mulRow_length, List.length_take, List.length_drop]; omega
    have hj' : j < res.length := by simp at hj; omega
    have ih := mulPasses_val w as bs (j + 1) (res.take j ++ mulRow (2 ^ w.bits) bj as (res.drop j) 0) (by rw [hlen]; exact hl)
      (by rw [hlen]; simp at hj; omega)
    rw [hlen] at ih
    rw [mulPasses]
    refine ih.trans ?_
    have hrow := mulRow_val w bj as (res.drop j) 0 (by simp; omega)
    have htake : (res.take j).length = j := by simp; omega
    have hpow : 2 ^ (w.bits * res.length) = 2 ^ (w.bits * j) * 2 ^ (w.bits * (res.drop j).length) := by
      rw [← Nat.pow_add, ← Nat.mul_add, List.length_drop, Nat.add_sub_cancel' hj'.le]
    have hres : valOf w res = valOf w (res.take j) + 2 ^ (w.bits * j) * valOf w (res.drop j) := by
      conv_lhs => rw [← List.take_append_drop j res, valOf_append, htake]
    rw [valOf_append, htake, valOf, hres, hpow]
    have h1 := ((hrow.mul_left' (2 ^ (w.bits * j))).add_left (valOf w (res.take j))).add_right
      (valOf w as * (2 ^ (w.bits * (j + 1)) * valOf w bs))
    refine h1.trans (congrArg (· % _) ?_)
    rw [Nat.mul_add w.bits, Nat.mul_one, Nat.pow_add]
    ring

end Sys2Proof.Machine
end

