-- ==== Sys2Proof/Laws/Decode.lean ====
section
/-!
SUPPORT. The fields of a packed word (30_encoding.md R90), and a word as its fields.
-/

namespace Sys2Proof

section
variable (opc : BitVec 8) (rd ra rb rm : RegField) (rsvd : BitVec 8)

theorem packFields_toNat : (packFields opc rd ra rb rm rsvd).toNat =
    16777216 * opc.toNat + 1048576 * rd.toNat + 65536 * ra.toNat + 4096 * rb.toNat + 256 * rm.toNat + rsvd.toNat := by
  have h1 := opc.isLt; have h2 := rd.isLt; have h3 := ra.isLt; have h4 := rb.isLt; have h5 := rm.isLt; have h6 := rsvd.isLt
  rw [packFields, BitVec.toNat_ofNat]
  norm_num at *
  generalize opc.toNat = a at *; generalize rd.toNat = b at *; generalize ra.toNat = c at *
  generalize rb.toNat = d at *; generalize rm.toNat = e at *; generalize rsvd.toNat = f at *
  omega

@[simp] theorem opcField_packFields : opcField (packFields opc rd ra rb rm rsvd) = opc := by
  have h1 := opc.isLt; have h2 := rd.isLt; have h3 := ra.isLt; have h4 := rb.isLt; have h5 := rm.isLt; have h6 := rsvd.isLt
  apply BitVec.eq_of_toNat_eq
  rw [opcField, BitVec.extractLsb'_toNat, packFields_toNat, Nat.shiftRight_eq_div_pow]
  norm_num at *
  generalize opc.toNat = a at *; generalize rd.toNat = b at *; generalize ra.toNat = c at *
  generalize rb.toNat = d at *; generalize rm.toNat = e at *; generalize rsvd.toNat = f at *
  omega

@[simp] theorem rdField_packFields : rdField (packFields opc rd ra rb rm rsvd) = rd := by
  have h1 := opc.isLt; have h2 := rd.isLt; have h3 := ra.isLt; have h4 := rb.isLt; have h5 := rm.isLt; have h6 := rsvd.isLt
  apply BitVec.eq_of_toNat_eq
  rw [rdField, BitVec.extractLsb'_toNat, packFields_toNat, Nat.shiftRight_eq_div_pow]
  norm_num at *
  generalize opc.toNat = a at *; generalize rd.toNat = b at *; generalize ra.toNat = c at *
  generalize rb.toNat = d at *; generalize rm.toNat = e at *; generalize rsvd.toNat = f at *
  omega

@[simp] theorem raField_packFields : raField (packFields opc rd ra rb rm rsvd) = ra := by
  have h1 := opc.isLt; have h2 := rd.isLt; have h3 := ra.isLt; have h4 := rb.isLt; have h5 := rm.isLt; have h6 := rsvd.isLt
  apply BitVec.eq_of_toNat_eq
  rw [raField, BitVec.extractLsb'_toNat, packFields_toNat, Nat.shiftRight_eq_div_pow]
  norm_num at *
  generalize opc.toNat = a at *; generalize rd.toNat = b at *; generalize ra.toNat = c at *
  generalize rb.toNat = d at *; generalize rm.toNat = e at *; generalize rsvd.toNat = f at *
  omega

@[simp] theorem rbField_packFields : rbField (packFields opc rd ra rb rm rsvd) = rb := by
  have h1 := opc.isLt; have h2 := rd.isLt; have h3 := ra.isLt; have h4 := rb.isLt; have h5 := rm.isLt; have h6 := rsvd.isLt
  apply BitVec.eq_of_toNat_eq
  rw [rbField, BitVec.extractLsb'_toNat, packFields_toNat, Nat.shiftRight_eq_div_pow]
  norm_num at *
  generalize opc.toNat = a at *; generalize rd.toNat = b at *; generalize ra.toNat = c at *
  generalize rb.toNat = d at *; generalize rm.toNat = e at *; generalize rsvd.toNat = f at *
  omega

@[simp] theorem rmField_packFields : rmField (packFields opc rd ra rb rm rsvd) = rm := by
  have h1 := opc.isLt; have h2 := rd.isLt; have h3 := ra.isLt; have h4 := rb.isLt; have h5 := rm.isLt; have h6 := rsvd.isLt
  apply BitVec.eq_of_toNat_eq
  rw [rmField, BitVec.extractLsb'_toNat, packFields_toNat, Nat.shiftRight_eq_div_pow]
  norm_num at *
  generalize opc.toNat = a at *; generalize rd.toNat = b at *; generalize ra.toNat = c at *
  generalize rb.toNat = d at *; generalize rm.toNat = e at *; generalize rsvd.toNat = f at *
  omega

@[simp] theorem rsvdField_packFields : rsvdField (packFields opc rd ra rb rm rsvd) = rsvd := by
  have h1 := opc.isLt; have h2 := rd.isLt; have h3 := ra.isLt; have h4 := rb.isLt; have h5 := rm.isLt; have h6 := rsvd.isLt
  apply BitVec.eq_of_toNat_eq
  rw [rsvdField, BitVec.extractLsb'_toNat, packFields_toNat, Nat.shiftRight_eq_div_pow]
  norm_num at *
  generalize opc.toNat = a at *; generalize rd.toNat = b at *; generalize ra.toNat = c at *
  generalize rb.toNat = d at *; generalize rm.toNat = e at *; generalize rsvd.toNat = f at *
  omega

end

/-- A word is its six fields (30_encoding.md R90). -/
theorem packFields_fields (w : Word) :
    packFields (opcField w) (rdField w) (raField w) (rbField w) (rmField w) (rsvdField w) = w := by
  apply BitVec.eq_of_toNat_eq
  have := w.isLt
  simp only [packFields, opcField, rdField, raField, rbField, rmField, rsvdField, BitVec.extractLsb'_toNat, BitVec.toNat_ofNat,
    Nat.shiftRight_eq_div_pow]
  omega

@[simp] theorem opcodeOf_code (o : Opcode) : opcodeOf o.code = some o := by cases o <;> decide

/-- An `OPC` value that stands for an opcode is that opcode's (30_encoding.md R95). -/
theorem code_of_opcodeOf {c : BitVec 8} {o : Opcode} (h : opcodeOf c = some o) : o.code = c := by
  unfold opcodeOf at h
  split at h
  · next e => cases h; exact e.symm
  split at h
  · next e => cases h; exact e.symm
  split at h
  · next e => cases h; exact e.symm
  split at h
  · next e => cases h; exact e.symm
  split at h
  · next e => cases h; exact e.symm
  · cases h

end Sys2Proof
end

