-- ==== Sys2Proof/Laws/State.lean ====
section
/-!
SUPPORT. One lemma per field per plain update of the state, each true by rfl: no later proof unfolds a record update.
-/

namespace Sys2Proof.Machine

section
variable (s : State)

/-! ### setReg -/

@[simp] theorem State.setReg_width (r : Fin 8) (x : Value) : (s.setReg r x).width = s.width := rfl
@[simp] theorem State.setReg_v (r : Fin 8) (x : Value) : (s.setReg r x).v = s.v.set r.val x := rfl
@[simp] theorem State.setReg_cmd (r : Fin 8) (x : Value) : (s.setReg r x).cmd = s.cmd := rfl
@[simp] theorem State.setReg_matched (r : Fin 8) (x : Value) : (s.setReg r x).matched = s.matched := rfl
@[simp] theorem State.setReg_err (r : Fin 8) (x : Value) : (s.setReg r x).err = s.err := rfl
@[simp] theorem State.setReg_hcount (r : Fin 8) (x : Value) : (s.setReg r x).hcount = s.hcount := rfl
@[simp] theorem State.setReg_phase (r : Fin 8) (x : Value) : (s.setReg r x).phase = s.phase := rfl
@[simp] theorem State.setReg_op (r : Fin 8) (x : Value) : (s.setReg r x).op = s.op := rfl
@[simp] theorem State.setReg_dst (r : Fin 8) (x : Value) : (s.setReg r x).dst = s.dst := rfl
@[simp] theorem State.setReg_la (r : Fin 8) (x : Value) : (s.setReg r x).la = s.la := rfl
@[simp] theorem State.setReg_lb (r : Fin 8) (x : Value) : (s.setReg r x).lb = s.lb := rfl
@[simp] theorem State.setReg_lm (r : Fin 8) (x : Value) : (s.setReg r x).lm = s.lm := rfl
@[simp] theorem State.setReg_acc (r : Fin 8) (x : Value) : (s.setReg r x).acc = s.acc := rfl
@[simp] theorem State.setReg_round (r : Fin 8) (x : Value) : (s.setReg r x).round = s.round := rfl
@[simp] theorem State.setReg_hreq (r : Fin 8) (x : Value) : (s.setReg r x).hreq = s.hreq := rfl
@[simp] theorem State.setReg_hresp (r : Fin 8) (x : Value) : (s.setReg r x).hresp = s.hresp := rfl
@[simp] theorem State.setReg_held (r : Fin 8) (x : Value) : (s.setReg r x).held = s.held := rfl
@[simp] theorem State.setReg_events (r : Fin 8) (x : Value) : (s.setReg r x).events = s.events := rfl
@[simp] theorem State.setReg_reads (r : Fin 8) (x : Value) : (s.setReg r x).reads = s.reads := rfl
@[simp] theorem State.setReg_draws (r : Fin 8) (x : Value) : (s.setReg r x).draws = s.draws := rfl

/-! ### setCmd -/

@[simp] theorem State.setCmd_width (w : Word) : (s.setCmd w).width = s.width := rfl
@[simp] theorem State.setCmd_v (w : Word) : (s.setCmd w).v = s.v := rfl
@[simp] theorem State.setCmd_cmd (w : Word) : (s.setCmd w).cmd = w := rfl
@[simp] theorem State.setCmd_matched (w : Word) : (s.setCmd w).matched = s.matched := rfl
@[simp] theorem State.setCmd_err (w : Word) : (s.setCmd w).err = s.err := rfl
@[simp] theorem State.setCmd_hcount (w : Word) : (s.setCmd w).hcount = s.hcount := rfl
@[simp] theorem State.setCmd_phase (w : Word) : (s.setCmd w).phase = s.phase := rfl
@[simp] theorem State.setCmd_op (w : Word) : (s.setCmd w).op = s.op := rfl
@[simp] theorem State.setCmd_dst (w : Word) : (s.setCmd w).dst = s.dst := rfl
@[simp] theorem State.setCmd_la (w : Word) : (s.setCmd w).la = s.la := rfl
@[simp] theorem State.setCmd_lb (w : Word) : (s.setCmd w).lb = s.lb := rfl
@[simp] theorem State.setCmd_lm (w : Word) : (s.setCmd w).lm = s.lm := rfl
@[simp] theorem State.setCmd_acc (w : Word) : (s.setCmd w).acc = s.acc := rfl
@[simp] theorem State.setCmd_round (w : Word) : (s.setCmd w).round = s.round := rfl
@[simp] theorem State.setCmd_hreq (w : Word) : (s.setCmd w).hreq = s.hreq := rfl
@[simp] theorem State.setCmd_hresp (w : Word) : (s.setCmd w).hresp = s.hresp := rfl
@[simp] theorem State.setCmd_held (w : Word) : (s.setCmd w).held = s.held := rfl
@[simp] theorem State.setCmd_events (w : Word) : (s.setCmd w).events = s.events := rfl
@[simp] theorem State.setCmd_reads (w : Word) : (s.setCmd w).reads = s.reads := rfl
@[simp] theorem State.setCmd_draws (w : Word) : (s.setCmd w).draws = s.draws := rfl

/-! ### setAcc -/

@[simp] theorem State.setAcc_width (x : Value) : (s.setAcc x).width = s.width := rfl
@[simp] theorem State.setAcc_v (x : Value) : (s.setAcc x).v = s.v := rfl
@[simp] theorem State.setAcc_cmd (x : Value) : (s.setAcc x).cmd = s.cmd := rfl
@[simp] theorem State.setAcc_matched (x : Value) : (s.setAcc x).matched = s.matched := rfl
@[simp] theorem State.setAcc_err (x : Value) : (s.setAcc x).err = s.err := rfl
@[simp] theorem State.setAcc_hcount (x : Value) : (s.setAcc x).hcount = s.hcount := rfl
@[simp] theorem State.setAcc_phase (x : Value) : (s.setAcc x).phase = s.phase := rfl
@[simp] theorem State.setAcc_op (x : Value) : (s.setAcc x).op = s.op := rfl
@[simp] theorem State.setAcc_dst (x : Value) : (s.setAcc x).dst = s.dst := rfl
@[simp] theorem State.setAcc_la (x : Value) : (s.setAcc x).la = s.la := rfl
@[simp] theorem State.setAcc_lb (x : Value) : (s.setAcc x).lb = s.lb := rfl
@[simp] theorem State.setAcc_lm (x : Value) : (s.setAcc x).lm = s.lm := rfl
@[simp] theorem State.setAcc_acc (x : Value) : (s.setAcc x).acc = x := rfl
@[simp] theorem State.setAcc_round (x : Value) : (s.setAcc x).round = s.round := rfl
@[simp] theorem State.setAcc_hreq (x : Value) : (s.setAcc x).hreq = s.hreq := rfl
@[simp] theorem State.setAcc_hresp (x : Value) : (s.setAcc x).hresp = s.hresp := rfl
@[simp] theorem State.setAcc_held (x : Value) : (s.setAcc x).held = s.held := rfl
@[simp] theorem State.setAcc_events (x : Value) : (s.setAcc x).events = s.events := rfl
@[simp] theorem State.setAcc_reads (x : Value) : (s.setAcc x).reads = s.reads := rfl
@[simp] theorem State.setAcc_draws (x : Value) : (s.setAcc x).draws = s.draws := rfl

/-! ### start -/

@[simp] theorem State.start_width (op : Opcode) (dst : Fin 8) (la lb lm : Value) : (s.start op dst la lb lm).width = s.width := rfl
@[simp] theorem State.start_v (op : Opcode) (dst : Fin 8) (la lb lm : Value) : (s.start op dst la lb lm).v = s.v := rfl
@[simp] theorem State.start_cmd (op : Opcode) (dst : Fin 8) (la lb lm : Value) : (s.start op dst la lb lm).cmd = s.cmd := rfl
@[simp] theorem State.start_matched (op : Opcode) (dst : Fin 8) (la lb lm : Value) : (s.start op dst la lb lm).matched = false := rfl
@[simp] theorem State.start_err (op : Opcode) (dst : Fin 8) (la lb lm : Value) : (s.start op dst la lb lm).err = .none := rfl
@[simp] theorem State.start_hcount (op : Opcode) (dst : Fin 8) (la lb lm : Value) : (s.start op dst la lb lm).hcount = 0 := rfl
@[simp] theorem State.start_phase (op : Opcode) (dst : Fin 8) (la lb lm : Value) : (s.start op dst la lb lm).phase = .exec := rfl
@[simp] theorem State.start_op (op : Opcode) (dst : Fin 8) (la lb lm : Value) : (s.start op dst la lb lm).op = op := rfl
@[simp] theorem State.start_dst (op : Opcode) (dst : Fin 8) (la lb lm : Value) : (s.start op dst la lb lm).dst = dst := rfl
@[simp] theorem State.start_la (op : Opcode) (dst : Fin 8) (la lb lm : Value) : (s.start op dst la lb lm).la = la := rfl
@[simp] theorem State.start_lb (op : Opcode) (dst : Fin 8) (la lb lm : Value) : (s.start op dst la lb lm).lb = lb := rfl
@[simp] theorem State.start_lm (op : Opcode) (dst : Fin 8) (la lb lm : Value) : (s.start op dst la lb lm).lm = lm := rfl
@[simp] theorem State.start_acc (op : Opcode) (dst : Fin 8) (la lb lm : Value) : (s.start op dst la lb lm).acc = s.acc := rfl
@[simp] theorem State.start_round (op : Opcode) (dst : Fin 8) (la lb lm : Value) : (s.start op dst la lb lm).round = 0 := rfl
@[simp] theorem State.start_hreq (op : Opcode) (dst : Fin 8) (la lb lm : Value) : (s.start op dst la lb lm).hreq = s.hreq := rfl
@[simp] theorem State.start_hresp (op : Opcode) (dst : Fin 8) (la lb lm : Value) : (s.start op dst la lb lm).hresp = s.hresp := rfl
@[simp] theorem State.start_held (op : Opcode) (dst : Fin 8) (la lb lm : Value) : (s.start op dst la lb lm).held = s.held := rfl
@[simp] theorem State.start_events (op : Opcode) (dst : Fin 8) (la lb lm : Value) : (s.start op dst la lb lm).events = s.events := rfl
@[simp] theorem State.start_reads (op : Opcode) (dst : Fin 8) (la lb lm : Value) : (s.start op dst la lb lm).reads = s.reads := rfl
@[simp] theorem State.start_draws (op : Opcode) (dst : Fin 8) (la lb lm : Value) : (s.start op dst la lb lm).draws = s.draws + 3 := rfl

/-! ### releaseLatches -/

@[simp] theorem State.releaseLatches_width : s.releaseLatches.width = s.width := rfl
@[simp] theorem State.releaseLatches_v : s.releaseLatches.v = s.v := rfl
@[simp] theorem State.releaseLatches_cmd : s.releaseLatches.cmd = s.cmd := rfl
@[simp] theorem State.releaseLatches_matched : s.releaseLatches.matched = s.matched := rfl
@[simp] theorem State.releaseLatches_err : s.releaseLatches.err = s.err := rfl
@[simp] theorem State.releaseLatches_hcount : s.releaseLatches.hcount = s.hcount := rfl
@[simp] theorem State.releaseLatches_phase : s.releaseLatches.phase = s.phase := rfl
@[simp] theorem State.releaseLatches_op : s.releaseLatches.op = Config.freeOp s.draws := rfl
@[simp] theorem State.releaseLatches_dst : s.releaseLatches.dst = Config.freeDst s.draws := rfl
@[simp] theorem State.releaseLatches_la : s.releaseLatches.la = Config.freeLatch s.draws := rfl
@[simp] theorem State.releaseLatches_lb : s.releaseLatches.lb = Config.freeLatch (s.draws + 1) := rfl
@[simp] theorem State.releaseLatches_lm : s.releaseLatches.lm = Config.freeLatch (s.draws + 2) := rfl
@[simp] theorem State.releaseLatches_acc : s.releaseLatches.acc = s.acc := rfl
@[simp] theorem State.releaseLatches_round : s.releaseLatches.round = s.round := rfl
@[simp] theorem State.releaseLatches_hreq : s.releaseLatches.hreq = s.hreq := rfl
@[simp] theorem State.releaseLatches_hresp : s.releaseLatches.hresp = s.hresp := rfl
@[simp] theorem State.releaseLatches_held : s.releaseLatches.held = s.held := rfl
@[simp] theorem State.releaseLatches_events : s.releaseLatches.events = s.events := rfl
@[simp] theorem State.releaseLatches_reads : s.releaseLatches.reads = s.reads := rfl
@[simp] theorem State.releaseLatches_draws : s.releaseLatches.draws = s.draws + 3 := rfl

/-! ### finish -/

@[simp] theorem State.finish_width (code : ErrCode) (m : Bool) : (s.finish code m).width = s.width := rfl
@[simp] theorem State.finish_v (code : ErrCode) (m : Bool) : (s.finish code m).v = s.v := rfl
@[simp] theorem State.finish_cmd (code : ErrCode) (m : Bool) : (s.finish code m).cmd = s.cmd := rfl
@[simp] theorem State.finish_matched (code : ErrCode) (m : Bool) : (s.finish code m).matched = m := rfl
@[simp] theorem State.finish_err (code : ErrCode) (m : Bool) : (s.finish code m).err = code := rfl
@[simp] theorem State.finish_hcount (code : ErrCode) (m : Bool) : (s.finish code m).hcount = s.hcount := rfl
@[simp] theorem State.finish_phase (code : ErrCode) (m : Bool) : (s.finish code m).phase = .idle := rfl
@[simp] theorem State.finish_op (code : ErrCode) (m : Bool) : (s.finish code m).op = s.op := rfl
@[simp] theorem State.finish_dst (code : ErrCode) (m : Bool) : (s.finish code m).dst = s.dst := rfl
@[simp] theorem State.finish_la (code : ErrCode) (m : Bool) : (s.finish code m).la = s.la := rfl
@[simp] theorem State.finish_lb (code : ErrCode) (m : Bool) : (s.finish code m).lb = s.lb := rfl
@[simp] theorem State.finish_lm (code : ErrCode) (m : Bool) : (s.finish code m).lm = s.lm := rfl
@[simp] theorem State.finish_acc (code : ErrCode) (m : Bool) : (s.finish code m).acc = s.acc := rfl
@[simp] theorem State.finish_round (code : ErrCode) (m : Bool) : (s.finish code m).round = s.round := rfl
@[simp] theorem State.finish_hreq (code : ErrCode) (m : Bool) : (s.finish code m).hreq = s.hreq := rfl
@[simp] theorem State.finish_hresp (code : ErrCode) (m : Bool) : (s.finish code m).hresp = s.hresp := rfl
@[simp] theorem State.finish_held (code : ErrCode) (m : Bool) : (s.finish code m).held = s.held := rfl
@[simp] theorem State.finish_events (code : ErrCode) (m : Bool) : (s.finish code m).events = s.events := rfl
@[simp] theorem State.finish_reads (code : ErrCode) (m : Bool) : (s.finish code m).reads = s.reads := rfl
@[simp] theorem State.finish_draws (code : ErrCode) (m : Bool) : (s.finish code m).draws = s.draws := rfl

/-! ### halt -/

@[simp] theorem State.halt_width (code : ErrCode) : (s.halt code).width = s.width := rfl
@[simp] theorem State.halt_v (code : ErrCode) : (s.halt code).v = s.v := rfl
@[simp] theorem State.halt_cmd (code : ErrCode) : (s.halt code).cmd = s.cmd := rfl
@[simp] theorem State.halt_matched (code : ErrCode) : (s.halt code).matched = false := rfl
@[simp] theorem State.halt_err (code : ErrCode) : (s.halt code).err = code := rfl
@[simp] theorem State.halt_hcount (code : ErrCode) : (s.halt code).hcount = s.hcount := rfl
@[simp] theorem State.halt_phase (code : ErrCode) : (s.halt code).phase = .halted := rfl
@[simp] theorem State.halt_op (code : ErrCode) : (s.halt code).op = s.op := rfl
@[simp] theorem State.halt_dst (code : ErrCode) : (s.halt code).dst = s.dst := rfl
@[simp] theorem State.halt_la (code : ErrCode) : (s.halt code).la = s.la := rfl
@[simp] theorem State.halt_lb (code : ErrCode) : (s.halt code).lb = s.lb := rfl
@[simp] theorem State.halt_lm (code : ErrCode) : (s.halt code).lm = s.lm := rfl
@[simp] theorem State.halt_acc (code : ErrCode) : (s.halt code).acc = s.acc := rfl
@[simp] theorem State.halt_round (code : ErrCode) : (s.halt code).round = s.round := rfl
@[simp] theorem State.halt_hreq (code : ErrCode) : (s.halt code).hreq = none := rfl
@[simp] theorem State.halt_hresp (code : ErrCode) : (s.halt code).hresp = s.hresp := rfl
@[simp] theorem State.halt_held (code : ErrCode) : (s.halt code).held = s.held := rfl
@[simp] theorem State.halt_events (code : ErrCode) : (s.halt code).events = s.events := rfl
@[simp] theorem State.halt_reads (code : ErrCode) : (s.halt code).reads = s.reads := rfl
@[simp] theorem State.halt_draws (code : ErrCode) : (s.halt code).draws = s.draws := rfl

/-! ### request -/

@[simp] theorem State.request_width (k : Nat) (a b m : Value) : (s.request k a b m).width = s.width := rfl
@[simp] theorem State.request_v (k : Nat) (a b m : Value) : (s.request k a b m).v = s.v := rfl
@[simp] theorem State.request_cmd (k : Nat) (a b m : Value) : (s.request k a b m).cmd = s.cmd := rfl
@[simp] theorem State.request_matched (k : Nat) (a b m : Value) : (s.request k a b m).matched = s.matched := rfl
@[simp] theorem State.request_err (k : Nat) (a b m : Value) : (s.request k a b m).err = s.err := rfl
@[simp] theorem State.request_hcount (k : Nat) (a b m : Value) : (s.request k a b m).hcount = s.hcount := rfl
@[simp] theorem State.request_phase (k : Nat) (a b m : Value) : (s.request k a b m).phase = .hwait := rfl
@[simp] theorem State.request_op (k : Nat) (a b m : Value) : (s.request k a b m).op = s.op := rfl
@[simp] theorem State.request_dst (k : Nat) (a b m : Value) : (s.request k a b m).dst = s.dst := rfl
@[simp] theorem State.request_la (k : Nat) (a b m : Value) : (s.request k a b m).la = s.la := rfl
@[simp] theorem State.request_lb (k : Nat) (a b m : Value) : (s.request k a b m).lb = s.lb := rfl
@[simp] theorem State.request_lm (k : Nat) (a b m : Value) : (s.request k a b m).lm = s.lm := rfl
@[simp] theorem State.request_acc (k : Nat) (a b m : Value) : (s.request k a b m).acc = s.acc := rfl
@[simp] theorem State.request_round (k : Nat) (a b m : Value) : (s.request k a b m).round = k := rfl
@[simp] theorem State.request_hreq (k : Nat) (a b m : Value) : (s.request k a b m).hreq = some ⟨k, a, b, m⟩ := rfl
@[simp] theorem State.request_hresp (k : Nat) (a b m : Value) : (s.request k a b m).hresp = s.hresp := rfl
@[simp] theorem State.request_held (k : Nat) (a b m : Value) : (s.request k a b m).held = s.held := rfl
@[simp] theorem State.request_events (k : Nat) (a b m : Value) : (s.request k a b m).events = s.events := rfl
@[simp] theorem State.request_reads (k : Nat) (a b m : Value) : (s.request k a b m).reads = s.reads := rfl
@[simp] theorem State.request_draws (k : Nat) (a b m : Value) : (s.request k a b m).draws = s.draws := rfl

/-! ### receive -/

@[simp] theorem State.receive_width (p : HintResp) : (s.receive p).width = s.width := rfl
@[simp] theorem State.receive_v (p : HintResp) : (s.receive p).v = s.v := rfl
@[simp] theorem State.receive_cmd (p : HintResp) : (s.receive p).cmd = s.cmd := rfl
@[simp] theorem State.receive_matched (p : HintResp) : (s.receive p).matched = s.matched := rfl
@[simp] theorem State.receive_err (p : HintResp) : (s.receive p).err = s.err := rfl
@[simp] theorem State.receive_hcount (p : HintResp) : (s.receive p).hcount = s.hcount := rfl
@[simp] theorem State.receive_phase (p : HintResp) : (s.receive p).phase = .exec := rfl
@[simp] theorem State.receive_op (p : HintResp) : (s.receive p).op = s.op := rfl
@[simp] theorem State.receive_dst (p : HintResp) : (s.receive p).dst = s.dst := rfl
@[simp] theorem State.receive_la (p : HintResp) : (s.receive p).la = s.la := rfl
@[simp] theorem State.receive_lb (p : HintResp) : (s.receive p).lb = s.lb := rfl
@[simp] theorem State.receive_lm (p : HintResp) : (s.receive p).lm = s.lm := rfl
@[simp] theorem State.receive_acc (p : HintResp) : (s.receive p).acc = s.acc := rfl
@[simp] theorem State.receive_round (p : HintResp) : (s.receive p).round = s.round := rfl
@[simp] theorem State.receive_hreq (p : HintResp) : (s.receive p).hreq = none := rfl
@[simp] theorem State.receive_hresp (p : HintResp) : (s.receive p).hresp = some p := rfl
@[simp] theorem State.receive_held (p : HintResp) : (s.receive p).held = s.held := rfl
@[simp] theorem State.receive_events (p : HintResp) : (s.receive p).events = s.events := rfl
@[simp] theorem State.receive_reads (p : HintResp) : (s.receive p).reads = s.reads := rfl
@[simp] theorem State.receive_draws (p : HintResp) : (s.receive p).draws = s.draws := rfl

/-! ### takeResponse -/

@[simp] theorem State.takeResponse_width : s.takeResponse.width = s.width := rfl
@[simp] theorem State.takeResponse_v : s.takeResponse.v = s.v := rfl
@[simp] theorem State.takeResponse_cmd : s.takeResponse.cmd = s.cmd := rfl
@[simp] theorem State.takeResponse_matched : s.takeResponse.matched = s.matched := rfl
@[simp] theorem State.takeResponse_err : s.takeResponse.err = s.err := rfl
@[simp] theorem State.takeResponse_hcount : s.takeResponse.hcount = s.hcount + 1 := rfl
@[simp] theorem State.takeResponse_phase : s.takeResponse.phase = s.phase := rfl
@[simp] theorem State.takeResponse_op : s.takeResponse.op = s.op := rfl
@[simp] theorem State.takeResponse_dst : s.takeResponse.dst = s.dst := rfl
@[simp] theorem State.takeResponse_la : s.takeResponse.la = s.la := rfl
@[simp] theorem State.takeResponse_lb : s.takeResponse.lb = s.lb := rfl
@[simp] theorem State.takeResponse_lm : s.takeResponse.lm = s.lm := rfl
@[simp] theorem State.takeResponse_acc : s.takeResponse.acc = s.acc := rfl
@[simp] theorem State.takeResponse_round : s.takeResponse.round = s.round := rfl
@[simp] theorem State.takeResponse_hreq : s.takeResponse.hreq = s.hreq := rfl
@[simp] theorem State.takeResponse_hresp : s.takeResponse.hresp = none := rfl
@[simp] theorem State.takeResponse_held : s.takeResponse.held = s.held := rfl
@[simp] theorem State.takeResponse_events : s.takeResponse.events = s.events := rfl
@[simp] theorem State.takeResponse_reads : s.takeResponse.reads = s.reads := rfl
@[simp] theorem State.takeResponse_draws : s.takeResponse.draws = s.draws := rfl

/-! ### respond -/

@[simp] theorem State.respond_width (t : HostTxn) (d : BitVec 64) : (s.respond t d).width = s.width := rfl
@[simp] theorem State.respond_v (t : HostTxn) (d : BitVec 64) : (s.respond t d).v = s.v := rfl
@[simp] theorem State.respond_cmd (t : HostTxn) (d : BitVec 64) : (s.respond t d).cmd = s.cmd := rfl
@[simp] theorem State.respond_matched (t : HostTxn) (d : BitVec 64) : (s.respond t d).matched = s.matched := rfl
@[simp] theorem State.respond_err (t : HostTxn) (d : BitVec 64) : (s.respond t d).err = s.err := rfl
@[simp] theorem State.respond_hcount (t : HostTxn) (d : BitVec 64) : (s.respond t d).hcount = s.hcount := rfl
@[simp] theorem State.respond_phase (t : HostTxn) (d : BitVec 64) : (s.respond t d).phase = s.phase := rfl
@[simp] theorem State.respond_op (t : HostTxn) (d : BitVec 64) : (s.respond t d).op = s.op := rfl
@[simp] theorem State.respond_dst (t : HostTxn) (d : BitVec 64) : (s.respond t d).dst = s.dst := rfl
@[simp] theorem State.respond_la (t : HostTxn) (d : BitVec 64) : (s.respond t d).la = s.la := rfl
@[simp] theorem State.respond_lb (t : HostTxn) (d : BitVec 64) : (s.respond t d).lb = s.lb := rfl
@[simp] theorem State.respond_lm (t : HostTxn) (d : BitVec 64) : (s.respond t d).lm = s.lm := rfl
@[simp] theorem State.respond_acc (t : HostTxn) (d : BitVec 64) : (s.respond t d).acc = s.acc := rfl
@[simp] theorem State.respond_round (t : HostTxn) (d : BitVec 64) : (s.respond t d).round = s.round := rfl
@[simp] theorem State.respond_hreq (t : HostTxn) (d : BitVec 64) : (s.respond t d).hreq = s.hreq := rfl
@[simp] theorem State.respond_hresp (t : HostTxn) (d : BitVec 64) : (s.respond t d).hresp = s.hresp := rfl
@[simp] theorem State.respond_held (t : HostTxn) (d : BitVec 64) : (s.respond t d).held = s.held := rfl
@[simp] theorem State.respond_events (t : HostTxn) (d : BitVec 64) : (s.respond t d).events = s.events := rfl
@[simp] theorem State.respond_reads (t : HostTxn) (d : BitVec 64) : (s.respond t d).reads = s.reads ++ [⟨t, d⟩] := rfl
@[simp] theorem State.respond_draws (t : HostTxn) (d : BitVec 64) : (s.respond t d).draws = s.draws := rfl

/-! ### hold -/

@[simp] theorem State.hold_width (t : HostTxn) : (s.hold t).width = s.width := rfl
@[simp] theorem State.hold_v (t : HostTxn) : (s.hold t).v = s.v := rfl
@[simp] theorem State.hold_cmd (t : HostTxn) : (s.hold t).cmd = s.cmd := rfl
@[simp] theorem State.hold_matched (t : HostTxn) : (s.hold t).matched = s.matched := rfl
@[simp] theorem State.hold_err (t : HostTxn) : (s.hold t).err = s.err := rfl
@[simp] theorem State.hold_hcount (t : HostTxn) : (s.hold t).hcount = s.hcount := rfl
@[simp] theorem State.hold_phase (t : HostTxn) : (s.hold t).phase = s.phase := rfl
@[simp] theorem State.hold_op (t : HostTxn) : (s.hold t).op = s.op := rfl
@[simp] theorem State.hold_dst (t : HostTxn) : (s.hold t).dst = s.dst := rfl
@[simp] theorem State.hold_la (t : HostTxn) : (s.hold t).la = s.la := rfl
@[simp] theorem State.hold_lb (t : HostTxn) : (s.hold t).lb = s.lb := rfl
@[simp] theorem State.hold_lm (t : HostTxn) : (s.hold t).lm = s.lm := rfl
@[simp] theorem State.hold_acc (t : HostTxn) : (s.hold t).acc = s.acc := rfl
@[simp] theorem State.hold_round (t : HostTxn) : (s.hold t).round = s.round := rfl
@[simp] theorem State.hold_hreq (t : HostTxn) : (s.hold t).hreq = s.hreq := rfl
@[simp] theorem State.hold_hresp (t : HostTxn) : (s.hold t).hresp = s.hresp := rfl
@[simp] theorem State.hold_held (t : HostTxn) : (s.hold t).held = s.held ++ [t] := rfl
@[simp] theorem State.hold_events (t : HostTxn) : (s.hold t).events = s.events := rfl
@[simp] theorem State.hold_reads (t : HostTxn) : (s.hold t).reads = s.reads := rfl
@[simp] theorem State.hold_draws (t : HostTxn) : (s.hold t).draws = s.draws := rfl

/-! ### setHeld -/

@[simp] theorem State.setHeld_width (ts : List HostTxn) : (s.setHeld ts).width = s.width := rfl
@[simp] theorem State.setHeld_v (ts : List HostTxn) : (s.setHeld ts).v = s.v := rfl
@[simp] theorem State.setHeld_cmd (ts : List HostTxn) : (s.setHeld ts).cmd = s.cmd := rfl
@[simp] theorem State.setHeld_matched (ts : List HostTxn) : (s.setHeld ts).matched = s.matched := rfl
@[simp] theorem State.setHeld_err (ts : List HostTxn) : (s.setHeld ts).err = s.err := rfl
@[simp] theorem State.setHeld_hcount (ts : List HostTxn) : (s.setHeld ts).hcount = s.hcount := rfl
@[simp] theorem State.setHeld_phase (ts : List HostTxn) : (s.setHeld ts).phase = s.phase := rfl
@[simp] theorem State.setHeld_op (ts : List HostTxn) : (s.setHeld ts).op = s.op := rfl
@[simp] theorem State.setHeld_dst (ts : List HostTxn) : (s.setHeld ts).dst = s.dst := rfl
@[simp] theorem State.setHeld_la (ts : List HostTxn) : (s.setHeld ts).la = s.la := rfl
@[simp] theorem State.setHeld_lb (ts : List HostTxn) : (s.setHeld ts).lb = s.lb := rfl
@[simp] theorem State.setHeld_lm (ts : List HostTxn) : (s.setHeld ts).lm = s.lm := rfl
@[simp] theorem State.setHeld_acc (ts : List HostTxn) : (s.setHeld ts).acc = s.acc := rfl
@[simp] theorem State.setHeld_round (ts : List HostTxn) : (s.setHeld ts).round = s.round := rfl
@[simp] theorem State.setHeld_hreq (ts : List HostTxn) : (s.setHeld ts).hreq = s.hreq := rfl
@[simp] theorem State.setHeld_hresp (ts : List HostTxn) : (s.setHeld ts).hresp = s.hresp := rfl
@[simp] theorem State.setHeld_held (ts : List HostTxn) : (s.setHeld ts).held = ts := rfl
@[simp] theorem State.setHeld_events (ts : List HostTxn) : (s.setHeld ts).events = s.events := rfl
@[simp] theorem State.setHeld_reads (ts : List HostTxn) : (s.setHeld ts).reads = s.reads := rfl
@[simp] theorem State.setHeld_draws (ts : List HostTxn) : (s.setHeld ts).draws = s.draws := rfl

/-! ### setEvents -/

@[simp] theorem State.setEvents_width (es : List Event) : (s.setEvents es).width = s.width := rfl
@[simp] theorem State.setEvents_v (es : List Event) : (s.setEvents es).v = s.v := rfl
@[simp] theorem State.setEvents_cmd (es : List Event) : (s.setEvents es).cmd = s.cmd := rfl
@[simp] theorem State.setEvents_matched (es : List Event) : (s.setEvents es).matched = s.matched := rfl
@[simp] theorem State.setEvents_err (es : List Event) : (s.setEvents es).err = s.err := rfl
@[simp] theorem State.setEvents_hcount (es : List Event) : (s.setEvents es).hcount = s.hcount := rfl
@[simp] theorem State.setEvents_phase (es : List Event) : (s.setEvents es).phase = s.phase := rfl
@[simp] theorem State.setEvents_op (es : List Event) : (s.setEvents es).op = s.op := rfl
@[simp] theorem State.setEvents_dst (es : List Event) : (s.setEvents es).dst = s.dst := rfl
@[simp] theorem State.setEvents_la (es : List Event) : (s.setEvents es).la = s.la := rfl
@[simp] theorem State.setEvents_lb (es : List Event) : (s.setEvents es).lb = s.lb := rfl
@[simp] theorem State.setEvents_lm (es : List Event) : (s.setEvents es).lm = s.lm := rfl
@[simp] theorem State.setEvents_acc (es : List Event) : (s.setEvents es).acc = s.acc := rfl
@[simp] theorem State.setEvents_round (es : List Event) : (s.setEvents es).round = s.round := rfl
@[simp] theorem State.setEvents_hreq (es : List Event) : (s.setEvents es).hreq = s.hreq := rfl
@[simp] theorem State.setEvents_hresp (es : List Event) : (s.setEvents es).hresp = s.hresp := rfl
@[simp] theorem State.setEvents_held (es : List Event) : (s.setEvents es).held = s.held := rfl
@[simp] theorem State.setEvents_events (es : List Event) : (s.setEvents es).events = es := rfl
@[simp] theorem State.setEvents_reads (es : List Event) : (s.setEvents es).reads = s.reads := rfl
@[simp] theorem State.setEvents_draws (es : List Event) : (s.setEvents es).draws = s.draws := rfl

/-! ### applyReset and resetAt -/

@[simp] theorem State.resetAt_width (w : LimbWidth) : (State.resetAt w).width = w := rfl
@[simp] theorem State.resetAt_v (w : LimbWidth) : (State.resetAt w).v = Vector.replicate 8 0 := rfl
@[simp] theorem State.resetAt_cmd (w : LimbWidth) : (State.resetAt w).cmd = 0 := rfl
@[simp] theorem State.resetAt_matched (w : LimbWidth) : (State.resetAt w).matched = false := rfl
@[simp] theorem State.resetAt_err (w : LimbWidth) : (State.resetAt w).err = .none := rfl
@[simp] theorem State.resetAt_hcount (w : LimbWidth) : (State.resetAt w).hcount = 0 := rfl
@[simp] theorem State.resetAt_phase (w : LimbWidth) : (State.resetAt w).phase = .idle := rfl
@[simp] theorem State.resetAt_op (w : LimbWidth) : (State.resetAt w).op = .zero := rfl
@[simp] theorem State.resetAt_dst (w : LimbWidth) : (State.resetAt w).dst = 0 := rfl
@[simp] theorem State.resetAt_la (w : LimbWidth) : (State.resetAt w).la = 0 := rfl
@[simp] theorem State.resetAt_lb (w : LimbWidth) : (State.resetAt w).lb = 0 := rfl
@[simp] theorem State.resetAt_lm (w : LimbWidth) : (State.resetAt w).lm = 0 := rfl
@[simp] theorem State.resetAt_acc (w : LimbWidth) : (State.resetAt w).acc = 0 := rfl
@[simp] theorem State.resetAt_round (w : LimbWidth) : (State.resetAt w).round = 0 := rfl
@[simp] theorem State.resetAt_hreq (w : LimbWidth) : (State.resetAt w).hreq = none := rfl
@[simp] theorem State.resetAt_hresp (w : LimbWidth) : (State.resetAt w).hresp = none := rfl
@[simp] theorem State.resetAt_held (w : LimbWidth) : (State.resetAt w).held = [] := rfl
@[simp] theorem State.resetAt_events (w : LimbWidth) : (State.resetAt w).events = [] := rfl
@[simp] theorem State.resetAt_reads (w : LimbWidth) : (State.resetAt w).reads = [] := rfl
@[simp] theorem State.resetAt_draws (w : LimbWidth) : (State.resetAt w).draws = 0 := rfl

@[simp] theorem State.applyReset_width : s.applyReset.width = s.width := rfl
@[simp] theorem State.applyReset_v : s.applyReset.v = Vector.replicate 8 0 := rfl
@[simp] theorem State.applyReset_cmd : s.applyReset.cmd = 0 := rfl
@[simp] theorem State.applyReset_matched : s.applyReset.matched = false := rfl
@[simp] theorem State.applyReset_err : s.applyReset.err = .none := rfl
@[simp] theorem State.applyReset_hcount : s.applyReset.hcount = 0 := rfl
@[simp] theorem State.applyReset_phase : s.applyReset.phase = .idle := rfl
@[simp] theorem State.applyReset_op : s.applyReset.op = .zero := rfl
@[simp] theorem State.applyReset_dst : s.applyReset.dst = 0 := rfl
@[simp] theorem State.applyReset_la : s.applyReset.la = 0 := rfl
@[simp] theorem State.applyReset_lb : s.applyReset.lb = 0 := rfl
@[simp] theorem State.applyReset_lm : s.applyReset.lm = 0 := rfl
@[simp] theorem State.applyReset_acc : s.applyReset.acc = 0 := rfl
@[simp] theorem State.applyReset_round : s.applyReset.round = 0 := rfl
@[simp] theorem State.applyReset_hreq : s.applyReset.hreq = none := rfl
@[simp] theorem State.applyReset_hresp : s.applyReset.hresp = none := rfl
@[simp] theorem State.applyReset_held : s.applyReset.held = s.held := rfl
@[simp] theorem State.applyReset_events : s.applyReset.events = s.events := rfl
@[simp] theorem State.applyReset_reads : s.applyReset.reads = s.reads := rfl
@[simp] theorem State.applyReset_draws : s.applyReset.draws = s.draws := rfl

end

end Sys2Proof.Machine
end

