-- ==== Sys2Proof/Laws/Ops.lean ====
section
/-!
SUPPORT. One spec lemma, or a few, per shared operation of Machine/Ops.lean: what it does, field by field, so that later proofs cite
these and do not unfold the operation.
-/

namespace Sys2Proof.Machine

section
variable (s : State)

/-! ### fatal -/

theorem State.fatal_of_halted (code : ErrCode) (h : s.phase = .halted) : s.fatal code = s := by simp [State.fatal, h]

theorem State.fatal_of_not_halted (code : ErrCode) (h : s.phase ≠ .halted) : s.fatal code = (s.halt code).releaseLatches := by
  simp [State.fatal, h]

@[simp] theorem State.fatal_phase (code : ErrCode) : (s.fatal code).phase = .halted := by
  unfold State.fatal; split <;> simp_all

@[simp] theorem State.fatal_width (code : ErrCode) : (s.fatal code).width = s.width := by unfold State.fatal; split <;> simp
@[simp] theorem State.fatal_v (code : ErrCode) : (s.fatal code).v = s.v := by unfold State.fatal; split <;> simp
@[simp] theorem State.fatal_cmd (code : ErrCode) : (s.fatal code).cmd = s.cmd := by unfold State.fatal; split <;> simp
@[simp] theorem State.fatal_hcount (code : ErrCode) : (s.fatal code).hcount = s.hcount := by unfold State.fatal; split <;> simp
@[simp] theorem State.fatal_acc (code : ErrCode) : (s.fatal code).acc = s.acc := by unfold State.fatal; split <;> simp
@[simp] theorem State.fatal_round (code : ErrCode) : (s.fatal code).round = s.round := by unfold State.fatal; split <;> simp
@[simp] theorem State.fatal_hresp (code : ErrCode) : (s.fatal code).hresp = s.hresp := by unfold State.fatal; split <;> simp
@[simp] theorem State.fatal_held (code : ErrCode) : (s.fatal code).held = s.held := by unfold State.fatal; split <;> simp
@[simp] theorem State.fatal_events (code : ErrCode) : (s.fatal code).events = s.events := by unfold State.fatal; split <;> simp
@[simp] theorem State.fatal_reads (code : ErrCode) : (s.fatal code).reads = s.reads := by unfold State.fatal; split <;> simp

theorem State.fatal_err (code : ErrCode) (h : s.phase ≠ .halted) : (s.fatal code).err = code := by
  simp [State.fatal_of_not_halted s code h]

theorem State.fatal_matched (code : ErrCode) (h : s.phase ≠ .halted) : (s.fatal code).matched = false := by
  simp [State.fatal_of_not_halted s code h]

theorem State.fatal_hreq (code : ErrCode) (h : s.phase ≠ .halted) : (s.fatal code).hreq = none := by
  simp [State.fatal_of_not_halted s code h]

/-! ### complete -/

section
variable (x : Value) (code : ErrCode) (m : Bool)

@[simp] theorem State.complete_width : (s.complete x code m).width = s.width := rfl
@[simp] theorem State.complete_v : (s.complete x code m).v = s.v.set s.dst.val x := rfl
@[simp] theorem State.complete_cmd : (s.complete x code m).cmd = s.cmd := rfl
@[simp] theorem State.complete_matched : (s.complete x code m).matched = m := rfl
@[simp] theorem State.complete_err : (s.complete x code m).err = code := rfl
@[simp] theorem State.complete_hcount : (s.complete x code m).hcount = s.hcount := rfl
@[simp] theorem State.complete_phase : (s.complete x code m).phase = .idle := rfl
@[simp] theorem State.complete_acc : (s.complete x code m).acc = s.acc := rfl
@[simp] theorem State.complete_round : (s.complete x code m).round = s.round := rfl
@[simp] theorem State.complete_hreq : (s.complete x code m).hreq = s.hreq := rfl
@[simp] theorem State.complete_hresp : (s.complete x code m).hresp = s.hresp := rfl
@[simp] theorem State.complete_held : (s.complete x code m).held = s.held := rfl
@[simp] theorem State.complete_events : (s.complete x code m).events = s.events := rfl
@[simp] theorem State.complete_reads : (s.complete x code m).reads = s.reads := rfl

end

/-! ### accept -/

/-- Acceptance of a well-formed command (10_state.md R47). -/
theorem State.accept_of_wellFormed (i : Instr) (h : i.WellFormed) :
    s.accept i = (s.setCmd (encode i)).start i.opcode (regNum i.rd) (s.latchValue i.ra s.draws) (s.latchValue i.rb (s.draws + 1))
      (s.latchValue i.rm (s.draws + 2)) := by
  simp only [State.accept, Instr.WellFormed] at *
  simp [h]

/-- Acceptance of an ill-formed command is that of an illegal word (30_encoding.md R98). -/
theorem State.accept_of_illFormed (i : Instr) (h : ¬ i.WellFormed) : s.accept i = (s.setCmd (encode i)).fatal .illegalCommand := by
  simp only [State.accept, Instr.WellFormed] at *
  simp [h]

@[simp] theorem State.accept_cmd (i : Instr) : (s.accept i).cmd = encode i := by unfold State.accept; split <;> simp
@[simp] theorem State.accept_width (i : Instr) : (s.accept i).width = s.width := by unfold State.accept; split <;> simp
@[simp] theorem State.accept_v (i : Instr) : (s.accept i).v = s.v := by unfold State.accept; split <;> simp
@[simp] theorem State.accept_acc (i : Instr) : (s.accept i).acc = s.acc := by unfold State.accept; split <;> simp
@[simp] theorem State.accept_hresp (i : Instr) : (s.accept i).hresp = s.hresp := by unfold State.accept; split <;> simp
@[simp] theorem State.accept_held (i : Instr) : (s.accept i).held = s.held := by unfold State.accept; split <;> simp
@[simp] theorem State.accept_events (i : Instr) : (s.accept i).events = s.events := by unfold State.accept; split <;> simp
@[simp] theorem State.accept_reads (i : Instr) : (s.accept i).reads = s.reads := by unfold State.accept; split <;> simp

/-! ### runCommand -/

section
variable (i : Instr) (work : State → State)

theorem State.runCommand_idle (h : s.phase = .idle) : s.runCommand i work = .next (s.accept i) := by simp [State.runCommand, h]

theorem State.runCommand_exec (h : s.phase = .exec) (hc : s.cmd = encode i) (ho : s.op = i.opcode) :
    s.runCommand i work = .next (work s) := by simp [State.runCommand, h, hc, ho]

theorem State.runCommand_hwait (h : s.phase = .hwait) : s.runCommand i work = .next s := by simp [State.runCommand, h]

theorem State.runCommand_halted (h : s.phase = .halted) : s.runCommand i work = .next s := by simp [State.runCommand, h]

/-- Everything a command can answer with a next state. -/
theorem State.runCommand_cases {s t : State} {i : Instr} {work : State → State} (h : s.runCommand i work = .next t) :
    (s.phase = .idle ∧ t = s.accept i) ∨ (s.phase = .exec ∧ s.cmd = encode i ∧ s.op = i.opcode ∧ t = work s) ∨
      (s.phase ≠ .idle ∧ t = s) := by
  unfold State.runCommand at h
  split at h
  · next hp => exact .inl ⟨hp, by simpa using h.symm⟩
  · next hp =>
    split at h
    · next hc =>
      split at h
      · next ho => exact .inr (.inl ⟨hp, hc, ho, by simpa using h.symm⟩)
      · cases h
    · exact .inr (.inr ⟨by simp [hp], by simpa using h.symm⟩)
  · next hp => exact .inr (.inr ⟨by simp [hp], by simpa using h.symm⟩)
  · next hp => exact .inr (.inr ⟨by simp [hp], by simpa using h.symm⟩)

end

/-! ### hintResponse -/

theorem State.hintResponse_hwait (p : HintResp) (h : s.phase = .hwait) : s.hintResponse p = s.receive p := by
  simp [State.hintResponse, h]

theorem State.hintResponse_discarded (p : HintResp) (h : s.phase ≠ .hwait) : s.hintResponse p = s := by
  simp [State.hintResponse, h]

end

end Sys2Proof.Machine
end

