-- ==== Sys2Proof/Laws/Exec.lean ====
section
/-!
SUPPORT. What `exec` can do, said once: every meaning is `runCommand` around the engine's step of its command.
-/

namespace Sys2Proof.Machine

/-- The engine's step of a command in progress (41_limb_vector.md R120, 42_subtractor.md R140, 43_multiplier.md R160,
44_reducer.md R180, 45_rsa.md R200). -/
def engineWork : Instr → State → State
  | .zero _, s => s.complete (zeroValue s.width) .none false
  | .sub _ _ _, s => s.complete (subf s.width s.la s.lb) .none false
  | .mul _ _ _, s => s.complete (mulf s.width s.la s.lb) .none false
  | .mulmod _ _ _ _, s => s.mulmodStep
  | .rsav _ _ _ _, s => s.rsavStep

theorem exec_eq_runCommand (i : Instr) (s : State) : exec i s = s.runCommand i (engineWork i) := by
  cases i <;> rfl

/-- In phase IDLE a command is accepted (10_state.md R47). -/
theorem exec_idle (i : Instr) (s : State) (h : s.phase = .idle) : exec i s = .next (s.accept i) := by
  rw [exec_eq_runCommand, State.runCommand_idle _ _ _ h]

/-- In phase EXEC the command in progress makes its engine step. -/
theorem exec_running (i : Instr) (s : State) (h : s.phase = .exec) (hc : s.cmd = encode i) (ho : s.op = i.opcode) :
    exec i s = .next (engineWork i s) := by
  rw [exec_eq_runCommand, State.runCommand_exec _ _ _ h hc ho]

/-- Every next state `exec` answers with. -/
theorem exec_cases {i : Instr} {s t : State} (h : exec i s = .next t) :
    (s.phase = .idle ∧ t = s.accept i) ∨ (s.phase = .exec ∧ s.cmd = encode i ∧ s.op = i.opcode ∧ t = engineWork i s) ∨
      (s.phase ≠ .idle ∧ t = s) := by
  rw [exec_eq_runCommand] at h
  exact State.runCommand_cases h

/-- `exec` never refuses. -/
theorem exec_not_refused (i : Instr) (s : State) (r : Refusal) : exec i s ≠ .refused r := by
  rw [exec_eq_runCommand]
  unfold State.runCommand
  split
  · simp
  · split
    · split <;> simp
    · simp
  · simp
  · simp

/-! ### The halves of MODMUL -/

theorem State.modmulIssue_zero (s : State) (k : Nat) (a b : Value) (h : s.lm = 0) :
    s.modmulIssue k a b = s.fatal .modulusZero := by
  rw [State.modmulIssue, if_pos (by rw [h]; exact BitVec.toNat_zero)]

theorem State.modmulIssue_nonzero (s : State) (k : Nat) (a b : Value) (h : s.lm ≠ 0) :
    s.modmulIssue k a b = s.request k a b s.lm := by
  rw [State.modmulIssue, if_neg fun e => h (BitVec.eq_of_toNat_eq (e.trans BitVec.toNat_zero.symm))]

theorem State.modmulCheck_pass (s : State) (a b : Value) (p : HintResp) (f : State → State)
    (h : check s.width a b s.lm p.q p.r = true) : s.modmulCheck a b p f = f s.takeResponse := by simp [State.modmulCheck, h]

theorem State.modmulCheck_fail (s : State) (a b : Value) (p : HintResp) (f : State → State)
    (h : check s.width a b s.lm p.q p.r = false) : s.modmulCheck a b p f = s.takeResponse.fatal .verification := by
  simp [State.modmulCheck, h]

theorem State.mulmodStep_issue (s : State) (h : s.hresp = none) : s.mulmodStep = s.modmulIssue 1 s.la s.lb := by
  simp [State.mulmodStep, h]

theorem State.mulmodStep_check (s : State) (p : HintResp) (h : s.hresp = some p) :
    s.mulmodStep = s.modmulCheck s.la s.lb p fun t => t.complete p.r .none false := by simp [State.mulmodStep, h]

theorem State.rsavStep_check (s : State) (p : HintResp) (h : s.hresp = some p) :
    s.rsavStep = s.modmulCheck s.acc (s.rsaOperand s.round) p fun t => t.setAcc p.r := by simp [State.rsavStep, h]

theorem State.rsavStep_issue (s : State) (h : s.hresp = none) (hr : s.round < 17) : s.rsavStep = s.rsaIssue := by
  simp [State.rsavStep, h, hr]

theorem State.rsavStep_finish (s : State) (h : s.hresp = none) (hr : 17 ≤ s.round) : s.rsavStep = s.rsaFinish := by
  simp [State.rsavStep, h, Nat.not_lt.mpr hr]

end Sys2Proof.Machine
end

