-- ==== Sys2Proof/Laws/HostPort.lean ====
section
/-!
SUPPORT. What the host port's operations can do, once each: a transaction's effect, its issue, and the turns.
-/

namespace Sys2Proof.Machine

/-- Every next state a write to `CMD` answers with. -/
theorem State.writeCmd_cases {s u : State} {w : Word} (h : s.writeCmd w = .next u) :
    (∃ i, decode w = .ok i ∧ exec i s = .next u) ∨ (∃ e, decode w = .error e) ∧ u = s.acceptIllegal w := by
  unfold State.writeCmd at h
  split at h
  · exact .inl ⟨_, by assumption, h⟩
  · cases h
    exact .inr ⟨⟨_, by assumption⟩, rfl⟩

/-- Every next state a host transaction answers with. -/
theorem State.performHost_cases {s u : State} {t : HostTxn} (h : s.performHost t = .next u) :
    (∃ d, u = s.respond t d) ∨ (∃ d, u = (s.respond t d).fatal .address) ∨ u = s.fatal .address ∨ u = s ∨
      (∃ a d, t = .writeVal a d ∧ s.valMapped a = true ∧ s.phase ≠ .halted ∧ u = s.writeVal a d) ∨
      ∃ w, t = .writeCtrl 2 w ∧ s.writeCmd w = .next u := by
  cases t with
  | readVal a =>
    cases h
    unfold State.hostReadVal
    split
    · exact .inl ⟨_, rfl⟩
    · exact .inr (.inl ⟨_, rfl⟩)
  | writeVal a d =>
    cases h
    unfold State.hostWriteVal
    split
    · split
      · exact .inr (.inr (.inr (.inl rfl)))
      · exact .inr (.inr (.inr (.inr (.inl ⟨a, d, rfl, by assumption, by assumption, rfl⟩))))
    · exact .inr (.inr (.inl rfl))
  | readCtrl a =>
    cases h
    unfold State.hostReadCtrl
    split
    · exact .inl ⟨_, rfl⟩
    · split
      · exact .inl ⟨_, rfl⟩
      · split
        · exact .inl ⟨_, rfl⟩
        · exact .inr (.inl ⟨_, rfl⟩)
  | writeCtrl a d =>
    simp only [State.performHost, State.hostWriteCtrl] at h
    split at h
    · cases h
      exact .inr (.inr (.inr (.inl rfl)))
    · split at h
      · cases h
        exact .inr (.inr (.inr (.inl rfl)))
      · split at h
        · subst a
          exact .inr (.inr (.inr (.inr (.inr ⟨d, rfl, h⟩))))
        · cases h
          exact .inr (.inr (.inl rfl))

/-- A transaction the host issues takes effect or waits. -/
theorem State.issueHost_cases {s u : State} {t : HostTxn} (h : s.issueHost t = .next u) :
    (s.held = [] ∧ s.interlocked t = false ∧ s.performHost t = .next u) ∨ u = s.hold t := by
  unfold State.issueHost at h
  split at h
  · rename_i hc
    exact .inl ⟨hc.1, hc.2, h⟩
  · cases h
    exact .inr rfl

/-- The port's turn lets its oldest waiting transaction take effect, or does nothing. -/
theorem State.releaseTurn_cases {s u : State} (h : s.releaseTurn = .next u) :
    (∃ t ts, s.held = t :: ts ∧ s.interlocked t = false ∧ (s.setHeld ts).performHost t = .next u) ∨ u = s := by
  unfold State.releaseTurn at h
  split at h
  · cases h
    exact .inr rfl
  · split at h
    · cases h
      exact .inr rfl
    · rename_i t ts he hi
      exact .inl ⟨t, ts, he, by simpa using hi, h⟩

/-- The block's own move is the port's turn or the engine's. -/
theorem State.ownTurn_cases (s : State) : s.ownTurn = s.engineTurn ∨ s.ownTurn = s.releaseTurn := by
  unfold State.ownTurn
  split
  · exact .inl rfl
  · split
    · exact .inl rfl
    · exact .inr rfl

/-- While no command is in progress the interlock holds nothing. -/
theorem State.interlocked_of_not_busy (s : State) (t : HostTxn) (h : s.busy = false) : s.interlocked t = false := by
  simp [State.interlocked, h]

end Sys2Proof.Machine
end

