-- ==== Sys2Proof/Laws/HostLoop.lean ====
section
/-!
SUPPORT. What one read of the host's `wait` loop gives, and the loop's rounds.
-/

namespace Sys2Proof.Machine

/-- With nothing waiting, `rdc status` is answered at once, in every phase. -/
theorem State.pollStatus_eq (s : State) (h : s.held = []) :
    s.pollStatus = .next (s.respond (.readCtrl 1) (s.statusWord.setWidth 64)) := by
  have hi : s.interlocked (.readCtrl 1) = false := by simp [State.interlocked, HostTxn.isCtrlRead]
  have hs : s.pollStatus = s.issueHost (.readCtrl 1) := rfl
  rw [hs, State.issueHost, if_pos ⟨h, hi⟩]
  rfl

/-- Bit 0 of `STATUS`, as the host reads it, is `BUSY`. -/
theorem State.pollDone_statusWord (s : State) : pollDone (s.statusWord.setWidth 64) = !s.busy := by
  have hmod : s.statusWord.toNat % 2 = s.busy.toNat := by
    have h1 := s.hcount.isLt
    have h2 := s.err.code.isLt
    have h3 := Bool.toNat_le s.fatalBit
    have h4 := Bool.toNat_le s.matched
    have h5 := Bool.toNat_le s.hwaiting
    have h6 := Bool.toNat_le s.busy
    rw [State.statusWord, BitVec.toNat_ofNat]
    norm_num at *
    omega
  have hb : s.statusWord.getLsbD 0 = s.busy := by
    rw [← BitVec.testBit_toNat, Nat.testBit_zero, hmod]
    cases s.busy <;> rfl
  simpa [pollDone] using congrArg not hb

/-- The host has seen `BUSY = 0` in its last answer exactly when no command was in progress at that read. -/
theorem State.sawIdle_respond (s : State) (t : HostTxn) (d : BitVec 64) : (s.respond t d).sawIdle = pollDone d := by
  simp [State.sawIdle, State.respond]

theorem hostWait_nil (s : State) : hostWait [] s = .next (false, s) := rfl

end Sys2Proof.Machine
end

