-- ==== Sys2Proof/Laws/PerInstr.lean ====
section
/-!
SUPPORT. One statement about the encoding of every command, with a lemma per constructor.
-/

open Sys2Proof

/-- The fields of a command's word: the opcode of 30_encoding.md R95, every register field the command uses where R90 puts it,
and 0 in the fields it does not use and in `RSVD` (R94). It holds for ill-formed commands too. -/
def Sys2Proof.Laws.Encoding.Statement (i : Instr) : Prop :=
  opcField (encode i) = i.opcode.code ∧ rdField (encode i) = i.rd ∧
    (∀ f, i.ra = some f → raField (encode i) = f) ∧ (i.ra = none → raField (encode i) = 0) ∧
    (∀ f, i.rb = some f → rbField (encode i) = f) ∧ (i.rb = none → rbField (encode i) = 0) ∧
    (∀ f, i.rm = some f → rmField (encode i) = f) ∧ (i.rm = none → rmField (encode i) = 0) ∧ rsvdField (encode i) = 0

theorem Sys2Proof.Laws.Encoding.zero (rd : RegField) : Sys2Proof.Laws.Encoding.Statement (.zero rd) := by
  simp [Sys2Proof.Laws.Encoding.Statement, encode, fieldBits, Instr.rd, Instr.ra, Instr.rb, Instr.rm]

theorem Sys2Proof.Laws.Encoding.sub (rd ra rb : RegField) : Sys2Proof.Laws.Encoding.Statement (.sub rd ra rb) := by
  simp [Sys2Proof.Laws.Encoding.Statement, encode, fieldBits, Instr.rd, Instr.ra, Instr.rb, Instr.rm]

theorem Sys2Proof.Laws.Encoding.mul (rd ra rb : RegField) : Sys2Proof.Laws.Encoding.Statement (.mul rd ra rb) := by
  simp [Sys2Proof.Laws.Encoding.Statement, encode, fieldBits, Instr.rd, Instr.ra, Instr.rb, Instr.rm]

theorem Sys2Proof.Laws.Encoding.mulmod (rd ra rb rm : RegField) : Sys2Proof.Laws.Encoding.Statement (.mulmod rd ra rb rm) := by
  simp [Sys2Proof.Laws.Encoding.Statement, encode, fieldBits, Instr.rd, Instr.ra, Instr.rb, Instr.rm]

theorem Sys2Proof.Laws.Encoding.rsav (rd ra rb rm : RegField) : Sys2Proof.Laws.Encoding.Statement (.rsav rd ra rb rm) := by
  simp [Sys2Proof.Laws.Encoding.Statement, encode, fieldBits, Instr.rd, Instr.ra, Instr.rb, Instr.rm]
end

