-- ==== Sys2Proof/Laws/Step.lean ====
section
/-!
SUPPORT. What one step can do, move by move (60_exceptions.md R224).
-/

namespace Sys2Proof.Machine

theorem step_no_event (s : State) (h : s.events = []) : step s = s.ownTurn := by simp [step, State.nextMove, h]

theorem step_event (s : State) (e : Event) (es : List Event) (h : s.events = e :: es) :
    step s = (s.setEvents es).handleEvent e := by simp [step, State.nextMove, h]

/-- A step is the block's own turn, or the move at the head of `events`. -/
theorem step_cases {s : State} {o : Host.Outcome State Fault Refusal} (h : step s = o) :
    (s.events = [] ∧ s.ownTurn = o) ∨ ∃ e es, s.events = e :: es ∧ (s.setEvents es).handleEvent e = o := by
  cases he : s.events with
  | nil => exact .inl ⟨rfl, by rw [← h, step_no_event s he]⟩
  | cons e es => exact .inr ⟨e, es, rfl, by rw [← h, step_event s e es he]⟩

/-- The engine's turn outside phase EXEC does nothing. -/
theorem State.engineTurn_not_exec (s : State) (h : s.phase ≠ .exec) : s.engineTurn = .next s := by
  unfold State.engineTurn
  split
  · next hp => exact absurd hp h
  · rfl

/-- The engine's turn in phase EXEC runs the command in `CMD`. -/
theorem State.engineTurn_exec (s : State) (i : Instr) (h : s.phase = .exec) (hd : decode s.cmd = .ok i) :
    s.engineTurn = exec i s := by simp [State.engineTurn, h, hd]

end Sys2Proof.Machine
end

