-- ==== Sys2Proof/Laws/Safety.lean ====
section
/-!
SUPPORT. The small lemmas of Safety.lean's definitions: other latches, and the host's polls.
-/

namespace Sys2Proof.Machine

section
variable (s : State) (op : Opcode) (dst : Fin 8) (la lb lm : Value)

@[simp] theorem State.withLatches_width : (s.withLatches op dst la lb lm).width = s.width := rfl
@[simp] theorem State.withLatches_v : (s.withLatches op dst la lb lm).v = s.v := rfl
@[simp] theorem State.withLatches_cmd : (s.withLatches op dst la lb lm).cmd = s.cmd := rfl
@[simp] theorem State.withLatches_matched : (s.withLatches op dst la lb lm).matched = s.matched := rfl
@[simp] theorem State.withLatches_err : (s.withLatches op dst la lb lm).err = s.err := rfl
@[simp] theorem State.withLatches_hcount : (s.withLatches op dst la lb lm).hcount = s.hcount := rfl
@[simp] theorem State.withLatches_phase : (s.withLatches op dst la lb lm).phase = s.phase := rfl
@[simp] theorem State.withLatches_op : (s.withLatches op dst la lb lm).op = op := rfl
@[simp] theorem State.withLatches_dst : (s.withLatches op dst la lb lm).dst = dst := rfl
@[simp] theorem State.withLatches_la : (s.withLatches op dst la lb lm).la = la := rfl
@[simp] theorem State.withLatches_lb : (s.withLatches op dst la lb lm).lb = lb := rfl
@[simp] theorem State.withLatches_lm : (s.withLatches op dst la lb lm).lm = lm := rfl
@[simp] theorem State.withLatches_acc : (s.withLatches op dst la lb lm).acc = s.acc := rfl
@[simp] theorem State.withLatches_round : (s.withLatches op dst la lb lm).round = s.round := rfl
@[simp] theorem State.withLatches_hreq : (s.withLatches op dst la lb lm).hreq = s.hreq := rfl
@[simp] theorem State.withLatches_hresp : (s.withLatches op dst la lb lm).hresp = s.hresp := rfl
@[simp] theorem State.withLatches_held : (s.withLatches op dst la lb lm).held = s.held := rfl
@[simp] theorem State.withLatches_events : (s.withLatches op dst la lb lm).events = s.events := rfl
@[simp] theorem State.withLatches_reads : (s.withLatches op dst la lb lm).reads = s.reads := rfl
@[simp] theorem State.withLatches_draws : (s.withLatches op dst la lb lm).draws = s.draws := rfl

end

/-- A move that is no poll stays. -/
theorem withoutPolls_cons (e : Event) (ms : List Event) :
    withoutPolls (e :: ms) = if e.isPoll then withoutPolls ms else e :: withoutPolls ms := by
  cases h : e.isPoll <;> simp [withoutPolls, h]

/-- A poll is a read of one of the three control registers. -/
theorem Event.isPoll_iff (e : Event) : e.isPoll = true ↔ ∃ a, a < 3 ∧ e = .host (.readCtrl a) := by
  cases e with
  | host t => cases t <;> simp [Event.isPoll]
  | _ => simp [Event.isPoll]

/-- With nothing waiting, a poll is answered at once, in every phase, and the answer is all it changes. -/
theorem step_poll (s : State) (e : Event) (es : List Event) (hp : e.isPoll = true) (he : s.events = e :: es) (hh : s.held = []) :
    ∃ t d, step s = .next ((s.setEvents es).respond t d) := by
  obtain ⟨a, ha, rfl⟩ := (Event.isPoll_iff e).mp hp
  have hi : (s.setEvents es).interlocked (.readCtrl a) = false := by simp [State.interlocked, HostTxn.isCtrlRead]
  have hs : step s = .next ((s.setEvents es).hostReadCtrl a) := by
    rw [step_event s _ es he, State.handleEvent, State.issueHost, if_pos ⟨hh, hi⟩, State.performHost]
  rw [hs]
  unfold State.hostReadCtrl
  split
  · exact ⟨_, _, rfl⟩
  · split
    · exact ⟨_, _, rfl⟩
    · rw [if_pos (by omega)]
      exact ⟨_, _, rfl⟩

end Sys2Proof.Machine
end

