-- ==== Sys2Proof/Tests/Slice0.lean ====
section
/-!
SUPPORT. The model's own tests, with expected results from spec/95_test_vectors.md, and for every statement with hypotheses a
concrete state and operands that meet them.
-/

namespace Sys2Proof.Machine

/-! ### Helpers -/

/-- A property of the next state, false of a stop. -/
def nextIs (o : Host.Outcome State Fault Refusal) (p : State → Bool) : Bool :=
  match o with
  | .next t => p t
  | .fault _ => false
  | .refused _ => false

/-- An engine with the command `i` in progress and the given operands latched, before its first step. -/
def runningState (w : LimbWidth) (i : Instr) (la lb lm : Value) : State :=
  { State.resetAt w with cmd := encode i, phase := .exec, op := i.opcode, dst := regNum i.rd, la := la, lb := lb, lm := lm }

/-- `runningState` in round `k` of its hint rounds, with the response of that round received. -/
def answeredState (w : LimbWidth) (i : Instr) (la lb lm acc : Value) (k : Nat) (p : HintResp) : State :=
  { runningState w i la lb lm with acc := acc, round := k, hcount := BitVec.ofNat 5 (k - 1), hresp := some p }

/-- A `MULMOD` that waits for its hint (T64). -/
def waitingState : State :=
  { runningState .l64 (.mulmod 4 0 1 2) 1000 1000 7 with phase := .hwait, round := 1, hreq := some ⟨1, 1000, 1000, 7⟩ }

/-- The fatal state after an illegal word, V0 holding 65 (P4). -/
def haltedState : State := { State.reset with phase := .halted, err := .illegalCommand, v := Vector.replicate 8 65 }

/-- An idle engine whose registers hold the given three values, and then zeros. -/
def idleState (w : LimbWidth) (a b c : Value) : State := { State.resetAt w with v := #v[a, b, c, 0, 0, 0, 0, 0] }

/-- The 17 responses of T52. -/
def responses : List HintResp :=
  [⟨106, 3046⟩, ⟨2869, 2639⟩, ⟨2154, 439⟩, ⟨59, 1974⟩, ⟨1205, 911⟩, ⟨256, 2273⟩, ⟨1598, 195⟩, ⟨11, 2462⟩, ⟨1874, 2802⟩,
   ⟨2428, 1480⟩, ⟨677, 1659⟩, ⟨851, 998⟩, ⟨308, 240⟩, ⟨17, 2639⟩, ⟨2154, 439⟩, ⟨59, 1974⟩, ⟨359, 65⟩]

/-- Moves with the host's reads of `STATUS` and `CMD` around each (70_reset_and_hazards.md R266). -/
def polled (ms : List Event) : List Event := ms.flatMap fun e => [.host (.readCtrl 1), e, .host (.readCtrl 2)]

/-! ### Well-formedness: one ill-formed term for each check (30_encoding.md R92, R97) -/

theorem test_wellFormed_bounds : (Instr.rsav 7 0 7 0).WellFormed ∧ (Instr.zero 7).WellFormed := by decide
theorem test_illFormed_rd : ¬ (Instr.zero 8).WellFormed ∧ ¬ (Instr.mulmod 15 0 1 2).WellFormed := by decide
theorem test_illFormed_ra : ¬ (Instr.sub 0 8 1).WellFormed ∧ ¬ (Instr.rsav 0 9 1 2).WellFormed := by decide
theorem test_illFormed_rb : ¬ (Instr.mul 0 1 8).WellFormed ∧ ¬ (Instr.mulmod 0 1 12 2).WellFormed := by decide
theorem test_illFormed_rm : ¬ (Instr.mulmod 0 1 2 8).WellFormed ∧ ¬ (Instr.rsav 0 1 2 15).WellFormed := by decide

/-! ### Decoding: words written out from the patterns of 30_encoding.md R96 (T5 to T16) -/

theorem test_decode_zero : decode 0b00000001010100000000000000000000 = .ok (.zero 5) := by decide
theorem test_decode_sub : decode 0b00000010001000000001000000000000 = .ok (.sub 2 0 1) := by decide
theorem test_decode_mul : decode 0b00000011000100010001000000000000 = .ok (.mul 1 1 1) := by decide
theorem test_decode_mulmod : decode 0b00000100010000000001001000000000 = .ok (.mulmod 4 0 1 2) := by decide
theorem test_decode_rsav : decode 0b00000101011101110111011100000000 = .ok (.rsav 7 7 7 7) := by decide
theorem test_decode_opcode_6 : decode 0x06000000 = .error .unknownOpcode ∧ legal 0x06000000 = false := by decide
theorem test_decode_rd_8 : decode 0x02801000 = .error .registerRange ∧ legal 0x02801000 = false := by decide
theorem test_decode_sub_rm : decode 0x02201300 = .error .unusedField ∧ legal 0x02201300 = false := by decide
theorem test_decode_rsvd : decode 0x01000001 = .error .reservedField ∧ legal 0x01000001 = false := by decide
theorem test_decode_zero_ra : decode 0x01010000 = .error .unusedField ∧ legal 0x01010000 = false := by decide
theorem test_decodeTableWord : decodeTableWord 32 0x04401200 = some (.mulmod 4 0 1 2) ∧ decodeTableWord 32 0 = none := by decide

/-! ### The commands, one engine step each -/

/-- T18. -/
theorem test_zero : nextIs (execZero 3 { runningState .l32 (.zero 3) 0 0 0 with v := Vector.replicate 8 9 })
    (fun t => t.v[3] == 0 && t.v[2] == 9 && t.statusWord == 0) = true := by decide +kernel

/-- T1, with `sub v2, v0, v1`. -/
theorem test_sub : nextIs
    (execSub 2 0 1 (runningState .l64 (.sub 2 0 1) 0xFFFFFFFFFFFFFFFFBBBBBBBBBBBBBBBB 0xCCCCCCCCCCCCCCCCAAAAAAAAAAAAAAAA 0))
    (fun t => t.v[2] == 0x33333333333333331111111111111111 && t.statusWord == 0) = true := by decide +kernel

/-- T2 in both limb widths: the borrow runs through every limb. -/
theorem test_subf_wraps : (limbs .l64 (subf .l64 0 0xAAAAAAAAAAAAAAAA)).take 3 =
      [0x5555555555555556, 0xFFFFFFFFFFFFFFFF, 0xFFFFFFFFFFFFFFFF] ∧
    (limbs .l32 (subf .l32 0 0xAAAAAAAAAAAAAAAA)).take 3 = [0x55555556, 0x55555555, 0xFFFFFFFF] ∧
    subBorrow .l64 0 0xAAAAAAAAAAAAAAAA = 1 := by decide +kernel

/-- T3, with `mul v3, v0, v1`. -/
theorem test_mul : nextIs
    (execMul 3 0 1 (runningState .l64 (.mul 3 0 1) 0xFFFFFFFFFFFFFFFFAAAAAAAAAAAAAAAA 0xEEEEEEEEEEEEEEEEBBBBBBBBBBBBBBBB 0))
    (fun t => t.v[3] == 0xEEEEEEEEEEEEEEEE6C16C16C16C16C157777777777777777D82D82D82D82D82E) = true := by decide +kernel

/-- T38 in limbs of 32 bits. -/
theorem test_mulf_limbs : (limbs .l32 (mulf .l32 0xFFFFFFFFFFFFFFFF 0xFFFFFFFFFFFFFFFF)).take 5 =
    [1, 0, 0xFFFFFFFE, 0xFFFFFFFF, 0] := by decide +kernel

/-- T17: a consistent wrong hint passes, and its `r` is written. -/
theorem test_mulmod_passes : nextIs
    (execMulmod 4 0 1 2 (answeredState .l64 (.mulmod 4 0 1 2) 1000 1000 7 0 1 ⟨142856, 8⟩))
    (fun t => t.v[4] == 8 && t.statusWord == 0x00000100) = true := by decide +kernel

/-- T50: T4's operands with `r + 1` in place of `r`. -/
theorem test_mulmod_fails : nextIs
    (execMulmod 4 0 1 2 (answeredState .l64 (.mulmod 4 0 1 2) 0xFFFFFFFFFFFFFFFFAAAAAAAAAAAAAAAA
      0xEEEEEEEEEEEEEEEEBBBBBBBBBBBBBBBB 0xAAAAAAAAAAAAAAAACCCCCCCCCCCCCCCC 0 1
      ⟨0x166666666666666655A740DA740DA740D, 0x67FE2DF75A56ED1C86F0C0F7949801D3⟩))
    (fun t => t.v[4] == 0 && t.statusWord == 0x00000198) = true := by decide +kernel

/-- The end of P3's first `rsav`: a match. -/
theorem test_rsav_match : nextIs
    (execRsav 3 0 1 2 { runningState .l64 (.rsav 3 0 1 2) 65 588 3233 with acc := 65, round := 17, hcount := 17 })
    (fun t => t.v[3] == 65 && t.statusWord == 0x00001104) = true := by decide +kernel

/-- T54: round 5 answered with `(1205, 912)`. -/
theorem test_rsav_round_fails : nextIs
    (execRsav 3 0 1 2 (answeredState .l64 (.rsav 3 0 1 2) 65 588 3233 1974 5 ⟨1205, 912⟩))
    (fun t => t.v[3] == 0 && t.statusWord == 0x00000598) = true := by decide +kernel

/-! ### The host port, reset and the assembler -/

/-- T59. -/
theorem test_config : configWord .l64 = 0x00082040 ∧ configWord .l32 = 0x00084020 := by decide

/-- T60. -/
theorem test_valAddr : valAddr .l64 3 5 = 101 ∧ valAddr .l32 3 5 = 197 := by decide

/-- T61. -/
theorem test_address_error : nextIs (State.reset.performHost (.readVal 256))
    (fun t => t.statusWord == 0x000000B8 && t.reads == [⟨.readVal 256, 0⟩]) = true := by decide +kernel

/-- T11: written after reset. -/
theorem test_illegal_word : nextIs (step { State.reset with events := [.host (.writeCtrl 2 0)] })
    (fun t => t.statusWord == 0x00000088 && t.cmd == 0) = true := by decide +kernel

/-- T64 and T63. -/
theorem test_status_waiting : waitingState.statusWord = 0x00000003 ∧
    nextIs (waitingState.performHost (.writeCtrl 1 0xFFFFFFFF)) (fun t => t.statusWord == 0x00000003) = true := by
  decide +kernel

/-- A number of R100 in both forms, and what the model refuses (log entry 19): `0x` alone, and a limb index in hex. -/
theorem test_number : number "0x1F".toList = some 31 ∧ number "31".toList = some 31 ∧ number "0x".toList = none ∧
    limbName .l64 "v3.5".toList = some (3, 5) ∧ limbName .l64 "v3.0x5".toList = none := by decide +kernel

/-- The first transactions of P1: `ldv v0` writes limb 1 at address 1. -/
theorem test_ldv : ((assembleLine .l64 7 "ldv v0, 0xFFFFFFFFFFFFFFFFBBBBBBBBBBBBBBBB".toList).map
    fun l => (l.moves .l64).take 3) = some [.host (.writeVal 0 0xBBBBBBBBBBBBBBBB), .host (.writeVal 1 0xFFFFFFFFFFFFFFFF),
      .host (.writeVal 2 0)] := by decide +kernel

/-- R101: `wait` after `zero v5` reads `BUSY = 1`, lets the engine move once, reads `BUSY = 0` and ends. -/
theorem test_wait : (match hostWait [1, 0, 0] (runningState .l64 (.zero 5) 0 0 0) with
    | .next r => r.1 && r.2.reads.map (fun x => x.data) == [1, 0]
    | _ => false) = true := by decide +kernel

/-- The answers of P2's `stv v4`: limb 0 first. -/
theorem test_stvValue : stvValue .l64 [⟨.readVal 128, 0x86F0C0F7949801D2⟩, ⟨.readVal 129, 0x67FE2DF75A56ED1C⟩, ⟨.readVal 130, 0⟩] =
    0x67FE2DF75A56ED1C86F0C0F7949801D2 := by decide +kernel

/-- R101: `mov v3, v1` with V7 held at zero. -/
theorem test_mov : assembleLine .l64 7 "mov v3, v1".toList = some (.command (.sub 3 1 7)) := by decide +kernel

/-! ### Witnesses: encoding, reset, registers -/

theorem witness_DecodeOfEncode : (Instr.rsav 7 7 7 7).WellFormed ∧ (Instr.zero 0).WellFormed := by decide

theorem witness_EncodeOfDecode : decode 0x05777700 = .ok (.rsav 7 7 7 7) := by decide

theorem witness_LegalExactlyWhenDecodes : (⟨.mulmod, 0x04000000, 0xFF8888FF⟩ : OpcodeRow) ∈ opcodeRows ∧
    OpcodeRow.hits ⟨.mulmod, 0x04000000, 0xFF8888FF⟩ 0x04777700 = true := by decide

theorem witness_ResetValues : State.resetAt .l32 = State.resetAt .l32 ∧ haltedState.width = .l64 ∧
    State.resetAt .l64 = haltedState.applyReset := ⟨rfl, rfl, rfl⟩

theorem witness_ResetFromAnyState : { haltedState with events := [.reset] }.events = .reset :: [] ∧
    (Instr.mul 7 0 7).WellFormed := ⟨rfl, by decide⟩

theorem witness_ResetReleasesWaiting :
    { waitingState with held := [.writeVal 0 7], events := [.reset, .release] }.held = .writeVal 0 7 :: [] ∧
    { waitingState with held := [.writeVal 0 7], events := [.reset, .release] }.events = .reset :: .release :: [] := ⟨rfl, rfl⟩

theorem witness_LimbWidthConstant : step { State.resetAt .l32 with events := [.reset] } = .next (State.resetAt .l32) := rfl

/-- The invariant holds in a state with a hint outstanding, and that state steps. -/
theorem witness_EngineInvariantKept : waitingState.Inv ∧ step waitingState = .next waitingState where
  left :=
    { hcount_le := by decide, round_le := by decide, hreq_iff := by decide, hresp_phase := by decide, fatal_iff := by decide
      busy_clear := by decide, matched_done := by decide, mismatch_done := by decide
      running := fun _ => ⟨.mulmod 4 0 1 2, by decide, rfl, rfl⟩
      progress := fun _ => .inr ⟨⟨by decide +kernel, rfl, .inl ⟨rfl, rfl, rfl⟩⟩, rfl⟩ }
  right := rfl

theorem witness_StepAlwaysAnswers : waitingState.Inv := witness_EngineInvariantKept.1

theorem witness_ValAndLimbsInverse : (List.replicate 32 (2 ^ 64 - 1)).length = LimbWidth.l64.count ∧
    (∀ a ∈ List.replicate 32 (2 ^ 64 - 1), a < 2 ^ LimbWidth.l64.bits) ∧ 31 < LimbWidth.l64.count := by decide +kernel

/-! ### Witnesses: acceptance and the steps -/

theorem witness_StepRunsDecodedCommand :
    ({ State.reset with events := [.host (.writeCtrl 2 0x01500000)] }.held = [] ∧ State.reset.phase = .idle ∧
      haltedState.phase = .halted ∧ decode 0x01500000 = .ok (.zero 5)) ∧
    ({ runningState .l64 (.zero 5) 0 0 0 with events := [.engine] }.phase = .exec ∧
      decode { runningState .l64 (.zero 5) 0 0 0 with events := [.engine] }.cmd = .ok (.zero 5)) ∧
    ((runningState .l64 (.zero 5) 0 0 0).events = [] ∧ (runningState .l64 (.zero 5) 0 0 0).held = []) ∧
    decodeTableWord 32 0x05301200 = some (.rsav 3 0 1 2) := by decide

theorem witness_IdleAcceptsCommand : (Instr.rsav 3 0 1 7).WellFormed ∧ State.reset.phase = .idle ∧
    (Instr.rsav 3 0 1 7).ra = some 0 ∧ (Instr.rsav 3 0 1 7).rb = some 1 ∧ (Instr.rsav 3 0 1 7).rm = some 7 ∧
    (7 : RegField).toNat < 8 := by decide

theorem witness_CmdWriteAccept : (State.reset.phase = .idle ∧ legal 0x05777700 = true) ∧ legal 0x02801000 = false ∧
    (runningState .l64 (.zero 5) 0 0 0).phase = .exec ∧ waitingState.phase = .hwait ∧ haltedState.phase = .halted := by decide

theorem witness_IllegalWordIsFatal : State.reset.phase = .idle ∧ State.reset.held = [] ∧
    { State.reset with events := [.host (.writeCtrl 2 0)] }.events = .host (.writeCtrl 2 0) :: [] ∧ legal 0 = false := by decide

theorem witness_IllFormedCommandIsFatal : ¬ (Instr.sub 8 0 1).WellFormed ∧ State.reset.phase = .idle := by decide

theorem witness_OtherCommandWaits : waitingState.phase = .hwait ∧ haltedState.phase = .halted ∧
    (runningState .l64 (.zero 5) 0 0 0).phase = .exec ∧ (runningState .l64 (.zero 5) 0 0 0).cmd ≠ encode (.zero 6) := by decide

/-- An idle engine takes a `CMD` write to phase EXEC, and the fatal state is the other phase named. -/
theorem witness_IdleLatchesUnread : State.reset.phase = .idle ∧ haltedState.phase = .halted ∧
    nextIs (step { State.reset with events := [.host (.writeCtrl 2 0x02201000)] }) (fun t => t.phase == .exec) = true := by
  decide +kernel

/-! ### Witnesses: subtractor, multiplier, reducer -/

/-- The two first operands agree in limbs 0 to 30 and differ in limb 31; the second ones agree. -/
theorem witness_SubtractorLimbLocality : 30 < LimbWidth.l64.count ∧ (∀ j, j ≤ 30 → limbOf .l64 5 j =
      limbOf .l64 (5 + 2 ^ 1984) j ∧ limbOf .l64 7 j = limbOf .l64 7 j) ∧ limbOf .l64 5 31 ≠ limbOf .l64 (5 + 2 ^ 1984) 31 := by
  decide +kernel

/-- Every operand at its largest: `p` reaches `2^(2L) - 1`. -/
theorem witness_MultiplierLimbsAndCommutes :
    (2 ^ 64 - 1 < 2 ^ LimbWidth.l64.bits ∧ (∀ a ∈ [2 ^ 64 - 1, 0], a < 2 ^ LimbWidth.l64.bits) ∧
      2 ^ 128 - 1 ∈ rowProducts (2 ^ LimbWidth.l64.bits) (2 ^ 64 - 1) [2 ^ 64 - 1, 0] [2 ^ 64 - 1, 0] (2 ^ 64 - 1)) ∧
    (∀ r ∈ [0, 2 ^ 64 - 1], r < 2 ^ LimbWidth.l64.bits) ∧
    2 ∈ mulPasses (2 ^ LimbWidth.l64.bits) [3, 0] [4, 5] 0 [2 ^ 64 - 10, 2 ^ 64 - 15] := by decide +kernel

/-- T4's correct hint; T47's as a received response; and the response of T52's last round. -/
theorem witness_CorrectHintPasses :
    HintCorrect 0xFFFFFFFFFFFFFFFFAAAAAAAAAAAAAAAA 0xEEEEEEEEEEEEEEEEBBBBBBBBBBBBBBBB
      0xAAAAAAAAAAAAAAAACCCCCCCCCCCCCCCC 0x166666666666666655A740DA740DA740D 0x67FE2DF75A56ED1C86F0C0F7949801D2 ∧
    (let s := answeredState .l64 (.mulmod 4 0 1 2) 1000 1000 7 0 1 ⟨142857, 1⟩;
      s.phase = .exec ∧ s.cmd = encode (.mulmod 4 0 1 2) ∧ s.op = (Instr.mulmod 4 0 1 2).opcode ∧ s.hresp = some ⟨142857, 1⟩ ∧
        s.op = .mulmod ∧ HintCorrect s.la s.lb s.lm 142857 1) ∧
    let s := answeredState .l64 (.rsav 3 0 1 2) 65 588 3233 1974 17 ⟨359, 65⟩
    s.phase = .exec ∧ s.cmd = encode (.rsav 3 0 1 2) ∧ s.op = (Instr.rsav 3 0 1 2).opcode ∧ s.hresp = some ⟨359, 65⟩ ∧
      s.op = .rsav ∧ HintCorrect s.acc (s.rsaOperand s.round) s.lm 359 65 :=
  ⟨⟨by decide +kernel, by decide +kernel, by decide +kernel⟩,
    ⟨rfl, rfl, rfl, rfl, rfl, by decide +kernel, by decide +kernel, by decide +kernel⟩,
    rfl, rfl, rfl, rfl, rfl, by decide +kernel, by decide +kernel, by decide +kernel⟩

/-- T17's operands and hint, and `2^N - 1` as its own inverse. -/
theorem witness_CheckOfArbitraryHint :
    (let s := answeredState .l64 (.mulmod 4 0 1 2) 1000 1000 7 0 1 ⟨142856, 8⟩;
      s.phase = .exec ∧ s.cmd = encode (.mulmod 4 0 1 2) ∧ s.op = .mulmod ∧ s.hresp = some ⟨142856, 8⟩ ∧
        check s.width s.la s.lb s.lm 142856 8 = true) ∧
    (HintCorrect 1000 1000 7 142857 1 ∧ 1 ≤ (142857 : Value).toNat ∧ (1 : Value).toNat + (7 : Value).toNat < 2 ^ 2048) ∧
    (7 : Value).toNat % 2 = 1 ∧ (2 ^ 2048 - 1 : Value) * (2 ^ 2048 - 1 : Value) = 1 :=
  ⟨by decide +kernel, ⟨⟨by decide +kernel, by decide +kernel, by decide +kernel⟩, by decide +kernel, by decide +kernel⟩,
    by decide +kernel, by decide +kernel⟩

/-! ### Witnesses: the commands -/

theorem witness_ZeroCompletes : (7 : RegField).toNat < 8 ∧ State.reset.phase = .idle := by decide

theorem witness_SubCompletes : (7 : RegField).toNat < 8 ∧ (0 : RegField).toNat < 8 ∧ (idleState .l32 5 7 0).phase = .idle := by
  decide

theorem witness_MulCompletes : (7 : RegField).toNat < 8 ∧ (0 : RegField).toNat < 8 ∧ (idleState .l32 5 7 0).phase = .idle := by
  decide

theorem witness_MulmodRequestsHint :
    let s := runningState .l64 (.mulmod 4 0 1 2) 1000 1000 7
    s.phase = .exec ∧ s.cmd = encode (.mulmod 4 0 1 2) ∧ s.op = .mulmod ∧ s.hresp = none ∧ s.lm ≠ 0 := by decide +kernel

/-- T17's hint again, through the identity on values. -/
theorem witness_MulmodCompletes :
    let s := answeredState .l64 (.mulmod 4 0 1 2) 1000 1000 7 0 1 ⟨142856, 8⟩
    s.phase = .exec ∧ s.cmd = encode (.mulmod 4 0 1 2) ∧ s.op = .mulmod ∧ s.hresp = some ⟨142856, 8⟩ ∧
      s.la * s.lb - 142856 * s.lm = 8 := by decide +kernel

theorem witness_ZeroModulusIsFatal : (Instr.rsav 3 0 1 7).WellFormed ∧ (Instr.rsav 3 0 1 7).rm = some 7 ∧
    (Instr.mulmod 3 0 1 7).WellFormed ∧ (Instr.mulmod 3 0 1 7).rm = some 7 ∧ (idleState .l64 1 2 3).phase = .idle ∧
    (idleState .l64 1 2 3).hresp = none ∧ (idleState .l64 1 2 3).v[7] = 0 := by decide +kernel

/-- A `MULMOD` that has received a response meets the invariant, whatever the response. -/
theorem answered_mulmod_inv (p : HintResp) : (answeredState .l64 (.mulmod 4 0 1 2) 1000 1000 7 0 1 p).Inv :=
  { hcount_le := show 0 ≤ 17 by decide, round_le := show 1 ≤ 17 by decide
    hreq_iff := by simp [answeredState, runningState, State.resetAt], hresp_phase := fun _ => .inl rfl
    fatal_iff := show ErrCode.none.isFatal = true ↔ Phase.exec = .halted by decide, busy_clear := fun _ => ⟨rfl, rfl⟩
    matched_done := nofun, mismatch_done := nofun
    running := fun _ => ⟨.mulmod 4 0 1 2, show decode (encode (.mulmod 4 0 1 2)) = _ by decide, rfl, rfl⟩
    progress := fun _ => .inr ⟨⟨by simp [answeredState, runningState], rfl, .inr ⟨rfl, rfl⟩⟩, rfl⟩ }

/-- `MULMOD` with its only response wrong: T17's with `r = 9`. -/
theorem witness_FailedCheckIsFatal_mulmod :
    let s := answeredState .l64 (.mulmod 4 0 1 2) 1000 1000 7 0 1 ⟨142856, 9⟩
    s.Inv ∧ s.phase = .exec ∧ decode s.cmd = .ok (.mulmod 4 0 1 2) ∧ s.hresp = some ⟨142856, 9⟩ ∧ s.op = .mulmod ∧
      s.la * s.lb - 142856 * s.lm ≠ 9 := ⟨answered_mulmod_inv _, rfl, by decide, rfl, rfl, by decide +kernel⟩

/-- `RSAV` with its last response wrong: T52's round 17 with `r = 66`. -/
theorem witness_FailedCheckIsFatal_rsav :
    let s := answeredState .l64 (.rsav 3 0 1 2) 65 588 3233 1974 17 ⟨359, 66⟩
    s.Inv ∧ s.phase = .exec ∧ decode s.cmd = .ok (.rsav 3 0 1 2) ∧ s.hresp = some ⟨359, 66⟩ ∧ s.op = .rsav ∧
      s.acc * (if s.round = 17 then s.lb else s.acc) - 359 * s.lm ≠ 66 :=
  ⟨{ hcount_le := by decide, round_le := by decide, hreq_iff := by decide, hresp_phase := by decide, fatal_iff := by decide
     busy_clear := by decide, matched_done := by decide, mismatch_done := by decide
     running := fun _ => ⟨.rsav 3 0 1 2, by decide, rfl, rfl⟩
     progress := fun _ => .inr ⟨⟨by decide +kernel, rfl, .inr ⟨rfl, rfl⟩⟩, by decide⟩ },
    rfl, by decide, rfl, rfl, by decide +kernel⟩

/-- T47's correct hint, in the moves of a whole `MULMOD` whose host polls throughout; another move is still to come. -/
theorem witness_MulmodValueUnderCorrectHint :
    let ms := polled (.host (.writeCtrl 2 (encode (.mulmod 4 0 1 2))) :: roundMoves [⟨142857, 1⟩])
    let s := { idleState .l64 1000 1000 7 with events := ms ++ [Event.release] }
    s.phase = .idle ∧ s.held = [] ∧ s.hresp = none ∧ s.events = ms ++ [Event.release] ∧
      withoutPolls ms = .host (.writeCtrl 2 (encode (.mulmod 4 0 1 2))) :: roundMoves [⟨142857, 1⟩] ∧
      HintCorrect s.v[0] s.v[1] s.v[2] 142857 1 :=
  ⟨rfl, rfl, rfl, rfl, rfl, by decide +kernel, by decide +kernel, by decide +kernel⟩

/-! ### Witnesses: RSAV -/

theorem witness_RsavRequestsHint :
    let s := { runningState .l64 (.rsav 3 0 1 2) 65 588 3233 with acc := 1974, round := 16, hcount := 16 }
    s.phase = .exec ∧ s.cmd = encode (.rsav 3 0 1 2) ∧ s.op = .rsav ∧ s.hresp = none ∧ s.lm ≠ 0 ∧ s.round < 17 := by
  decide +kernel

theorem witness_RsavRoundPasses :
    let s := answeredState .l64 (.rsav 3 0 1 2) 65 588 3233 1974 17 ⟨359, 65⟩
    s.phase = .exec ∧ s.cmd = encode (.rsav 3 0 1 2) ∧ s.op = .rsav ∧ s.hresp = some ⟨359, 65⟩ ∧
      s.acc * (if s.round = 17 then s.lb else s.acc) - 359 * s.lm = 65 := by decide +kernel

theorem witness_RsavCompletes :
    let s := { runningState .l64 (.rsav 3 0 1 2) 65 588 3233 with acc := 65, round := 17, hcount := 17 }
    s.phase = .exec ∧ s.cmd = encode (.rsav 3 0 1 2) ∧ s.op = .rsav ∧ s.hresp = none ∧ s.round = 17 ∧ s.acc = s.la ∧
      s.acc ≠ 66 := by decide +kernel

/-- T52's operands, in the moves of a whole `RSAV` with T52's responses whose host polls throughout. -/
def rsavState : State := { idleState .l64 65 588 3233 with events := polled (commandMoves (.rsav 3 0 1 2) responses) ++ [.release] }

/-- What the three statements about a whole `RSAV` ask of the start. -/
theorem rsavState_start : rsavState.phase = .idle ∧ rsavState.held = [] ∧ rsavState.hresp = none ∧ responses.length = 17 ∧
    rsavState.events = polled (commandMoves (.rsav 3 0 1 2) responses) ++ [.release] ∧
    withoutPolls (polled (commandMoves (.rsav 3 0 1 2) responses)) = commandMoves (.rsav 3 0 1 2) responses :=
  ⟨rfl, rfl, rfl, rfl, rfl, rfl⟩

theorem witness_RsavRunsSeventeenRounds : (rsavState.v[2] : Value) ≠ 0 ∧
    RoundsPass rsavState.width rsavState.v[1] rsavState.v[2] rsavState.v[1] 1 responses := by
  refine ⟨by decide +kernel, ?_⟩
  iterate 17 refine ⟨by decide +kernel, ?_⟩
  exact trivial

/-- T52 meets the premise of the truncated power. -/
theorem witness_RsavComputesTruncatedPower : RoundsCorrect rsavState.v[1] rsavState.v[2] rsavState.v[1] 1 responses := by
  iterate 17 refine ⟨⟨by decide +kernel, by decide +kernel, by decide +kernel⟩, ?_⟩
  exact trivial

/-- T52 lies within the bounds of the signature check; and the bounds at their largest. -/
theorem witness_RsavMatchesValidSignature : (rsavState.v[1]).toNat < 2 ^ 1024 ∧ (rsavState.v[2]).toNat ≤ 2 ^ 1024 ∧
    (0 < 2 ^ 1024 ∧ 2 ^ 1024 - 1 < 2 ^ 1024 ∧ 2 ^ 1024 ≤ 2 ^ 1024) ∧
    RoundsCorrect rsavState.v[1] rsavState.v[2] rsavState.v[1] 1 responses :=
  ⟨by decide +kernel, by decide +kernel, by decide +kernel, witness_RsavComputesTruncatedPower⟩

/-! ### Witnesses: the fatal state -/

theorem witness_FatalEntry : haltedState.phase = .halted ∧ waitingState.phase ≠ .halted := by decide

theorem witness_FatalStateIgnoresWrites : haltedState.phase = .halted ∧ 255 < 8 * haltedState.width.count ∧
    8 * haltedState.width.count ≤ 256 ∧ haltedState.held = [] ∧
    { haltedState with held := [.readVal 0] }.held = .readVal 0 :: [] ∧
    { haltedState with events := [.reset] }.events = .reset :: [] ∧
    step { haltedState with events := [.engine] } = .next haltedState := ⟨rfl, by decide, by decide, rfl, rfl, rfl, rfl⟩

theorem witness_FatalStateSticky : { haltedState with events := [.engine] }.phase = .halted ∧
    (∀ es, { haltedState with events := [.engine] }.events ≠ .reset :: es) ∧
    step { haltedState with events := [.engine] } = .next haltedState := ⟨rfl, by simp, rfl⟩

theorem witness_CleanEndMeansCleanRun : Event.reset ∉ waitingState.events ∧ core.run 3 waitingState = .next waitingState ∧
    ¬ waitingState.Fatal := ⟨by simp [waitingState, runningState, State.resetAt], rfl, by simp [State.Fatal, waitingState]⟩

/-! ### Witnesses: the ports -/

theorem witness_BusyHoldsHostAccess :
    { waitingState with events := [.host (.readVal 0)] }.phase = .hwait ∧
    { waitingState with events := [.host (.readVal 0)] }.events = .host (.readVal 0) :: [] ∧
    (∀ a, HostTxn.readVal 0 ≠ .readCtrl a) ∧ { waitingState with events := [.host (.readCtrl 1)] }.held = [] :=
  ⟨rfl, rfl, by simp, rfl⟩

theorem witness_WaitingAccessesKeepOrder :
    let held : List HostTxn := [.writeVal 0 7]
    { waitingState with held := held, events := [.host (.readCtrl 1)] }.held = .writeVal 0 7 :: [] ∧
    { State.reset with held := held, events := [.release] }.busy = false ∧
    { waitingState with held := held, events := [.release] }.busy = true ∧ (∀ a, HostTxn.writeVal 0 7 ≠ .readCtrl a) :=
  ⟨rfl, rfl, rfl, by simp⟩

theorem witness_ValReadReturnsLimb : 7 < 8 ∧ 31 < (idleState .l64 1 2 3).width.count ∧ 63 < (idleState .l32 1 2 3).width.count := by
  decide

theorem witness_ValWriteSetsLimb : 7 < 8 ∧ 63 < (idleState .l32 1 2 3).width.count ∧
    (0xFFFFFFFF : BitVec 64).toNat < 2 ^ (idleState .l32 1 2 3).width.bits ∧ (idleState .l32 1 2 3).phase ≠ .halted ∧
    haltedState.phase = .halted ∧ 0 < (idleState .l32 1 2 3).width.count ∧ 0 ≠ 63 := by decide

theorem witness_UnmappedAccessIsFatal : 8 * State.reset.width.count ≤ 256 ∧ 8 * (State.resetAt .l32).width.count ≤ 512 ∧ 3 ≤ 3 ∧
    State.reset.phase ≠ .halted ∧ haltedState.phase = .halted := by decide

theorem witness_HintResponseTakenOrDiscarded : { waitingState with events := [.hint ⟨142857, 1⟩] }.phase = .hwait ∧
    { waitingState with events := [.hint ⟨142857, 1⟩] }.events = .hint ⟨142857, 1⟩ :: [] ∧ State.reset.phase ≠ .hwait := by
  decide +kernel

/-- A hang with a `CTRL` read to come and a waiting access. -/
theorem witness_UnansweredRequestHangs :
    let s := { waitingState with held := [.readVal 0], events := [.host (.readCtrl 2), .engine] }
    s.Hung ∧ (∀ a, Event.host (.readCtrl a) ∈ s.events → a < 3) ∧ ∀ a, HostTxn.readCtrl a ∈ s.held → a < 3 := by
  refine ⟨⟨rfl, ?_, ?_⟩, ?_, ?_⟩ <;> simp

/-! ### Witnesses: frames and whole-machine rules -/

theorem witness_RegisterCommandFrame : (Instr.sub 2 0 1).WellFormed ∧ (Instr.sub 2 0 1).opcode = .sub ∧
    exec (.sub 2 0 1) waitingState = .next waitingState ∧
    exec (.zero 5) (runningState .l64 (.zero 5) 1 2 3) =
      .next ((runningState .l64 (.zero 5) 1 2 3).complete (zeroValue .l64) .none false) := ⟨by decide, rfl, rfl, rfl⟩

theorem witness_HintCommandFrame : (Instr.mulmod 4 0 1 2).WellFormed ∧ (Instr.rsav 4 0 1 2).opcode = .rsav ∧
    exec (.mulmod 4 0 1 2) (runningState .l64 (.mulmod 4 0 1 2) 1 2 3) =
      .next ((runningState .l64 (.mulmod 4 0 1 2) 1 2 3).modmulIssue 1 1 2) := ⟨by decide, rfl, rfl⟩

/-- A write issued with none waiting, the oldest waiting one at the port's turn and at the block's own, and a step into the fatal
state. -/
theorem witness_RegistersChangeOnlyByRule :
    step { State.reset with events := [.host (.writeVal 255 1)] } = .next (State.reset.writeVal 255 1) ∧
    step { State.reset with held := [.writeVal 255 1], events := [.release] } = .next (State.reset.writeVal 255 1) ∧
    step { State.reset with held := [.writeVal 255 1] } = .next (State.reset.writeVal 255 1) ∧
    step { State.reset with events := [.host (.writeVal 256 1)] } = .next (State.reset.fatal .address) := ⟨rfl, rfl, rfl, rfl⟩

/-- T17's response completes the command, and one with `r = 9` fails. -/
theorem witness_HcountAtCommandEnd :
    (let s := answeredState .l64 (.mulmod 4 0 1 2) 1000 1000 7 0 1 ⟨142856, 8⟩;
      s.Inv ∧ s.phase = .exec ∧ s.engineTurn = .next s.mulmodStep ∧ s.mulmodStep.phase = .idle) ∧
    let s := answeredState .l64 (.mulmod 4 0 1 2) 1000 1000 7 0 1 ⟨142856, 9⟩
    s.Inv ∧ s.phase = .exec ∧ s.engineTurn = .next s.mulmodStep ∧ s.mulmodStep.phase = .halted :=
  ⟨⟨answered_mulmod_inv _, rfl, rfl, by decide +kernel⟩, answered_mulmod_inv _, rfl, rfl, by decide +kernel⟩

theorem witness_NativeRoundTrip : ((-1 : Int) < 0 ∨ (2 : Int) ^ 2048 ≤ -1) ∧ ((2 : Int) ^ 2048 < 0 ∨ (2 : Int) ^ 2048 ≤ 2 ^ 2048) ∧
    (0 : Int) ≤ 2 ^ 2048 - 1 ∧ (2 : Int) ^ 2048 - 1 < 2 ^ 2048 := by decide +kernel

/-- `ldv` and `stv` of the last register on idle engines, `stv` in the fatal state, a `wait` that ends, and one that reads again. -/
theorem witness_PseudoInstructions :
    (let s := { idleState .l32 5 7 0 with events := (AsmLine.ldv 7 9).moves .l32 ++ [Event.release] };
      (7 : RegField).toNat < 8 ∧ s.phase = .idle ∧ s.held = [] ∧ s.events = (AsmLine.ldv 7 9).moves s.width ++ [Event.release]) ∧
    (let s := { haltedState with events := (AsmLine.stv 7).moves .l64 ++ [] };
      s.phase = .halted ∧ s.held = [] ∧ s.events = (AsmLine.stv 7).moves s.width ++ []) ∧
    hostWait [0] State.reset = .next (true, State.reset.respond (.readCtrl 1) 0) ∧
    (State.reset.held = [] ∧ State.reset.busy = false) ∧
    (waitingState.held = [] ∧ waitingState.busy = true ∧
      core.run 2 (waitingState.respond (.readCtrl 1) (waitingState.statusWord.setWidth 64)) =
        .next (waitingState.respond (.readCtrl 1) (waitingState.statusWord.setWidth 64))) :=
  ⟨⟨by decide, rfl, rfl, rfl⟩, ⟨rfl, rfl, rfl⟩, by rfl, ⟨rfl, rfl⟩, rfl, rfl, by rfl⟩

theorem witness_FromHexReadsNumber : hexDigits (List.replicate 512 'F') = some (List.replicate 512 15) ∧
    (List.replicate 512 15).length ≤ 512 ∧ hexDigits (List.replicate 513 '0') = some (List.replicate 513 0) ∧
    512 < (List.replicate 513 0).length ∧ hexDigits ['g'] = none ∧ ∀ e, ['0', 'X', '1'] ≠ '0' :: 'x' :: e := by
  refine ⟨by decide +kernel, by decide +kernel, by decide +kernel, by decide +kernel, by decide, by simp⟩

end Sys2Proof.Machine
end

section
/-!
PROOFS. The limb view of a value (00_scope.md R14; O14) and the constant limb width (00_scope.md R11, 10_state.md R38; O10).
-/

namespace Sys2Proof.Machine

/-! ### `val` and `limbs` -/

/-- The recursive `valOf` is the sum R14 writes. -/
theorem valOf_eq_sum (w : LimbWidth) (xs : List Nat) :
    valOf w xs = ((List.range xs.length).map fun i => xs.getD i 0 * 2 ^ (w.bits * i)).sum := by
  induction xs with
  | nil => rfl
  | cons x xs ih =>
    rw [valOf, ih, ← List.sum_map_mul_left, List.length_cons, List.range_succ_eq_map, List.map_cons, List.sum_cons, List.map_map]
    refine congrArg₂ (· + ·) (by simp) (congrArg List.sum (List.map_congr_left fun i _ => ?_))
    rw [Function.comp_apply, List.getD_cons_succ, Nat.mul_succ, Nat.pow_add]
    ring

theorem valOf_limbs (w : LimbWidth) (x : Value) : valOf w (limbs w x) = x.toNat := by
  rw [limbs_eq_natLimbs, valOf_natLimbs, bits_mul_count, Nat.mod_eq_of_lt x.isLt]

section
variable {w : LimbWidth} {xs : List Nat} (hlen : xs.length = w.count) (hlt : ∀ a ∈ xs, a < 2 ^ w.bits)
include hlen hlt

theorem valOf_lt_of_length_eq_count : valOf w xs < 2 ^ (w.bits * w.count) := hlen ▸ valOf_lt w xs hlt

theorem valOf_lt_two_pow_valueBits : valOf w xs < 2 ^ 2048 := bits_mul_count w ▸ valOf_lt_of_length_eq_count hlen hlt

theorem toNat_ofLimbs : (ofLimbs w xs).toNat = valOf w xs := by
  rw [ofLimbs, BitVec.toNat_ofNat, ← bits_mul_count w, Nat.mod_eq_of_lt (valOf_lt_of_length_eq_count hlen hlt)]

theorem limbs_ofLimbs : limbs w (ofLimbs w xs) = xs := by
  refine List.ext_getElem (by rw [limbs_length, hlen]) fun i _ hi => ?_
  rw [limbs_getElem, limbOf, toNat_ofLimbs hlen hlt, valOf_digit w xs i hlt hi]

end

/-- Settles O14: the digit sum of a value's limbs is the value, and digit `i` of a digit sum is limb `i`. -/
theorem valAndLimbsInverse : Obligations.ValAndLimbsInverse := by
  intro w
  refine ⟨fun x => ⟨limbs_length w x, natLimbs_lt w x.toNat, valOf_limbs w x, limbs_getElem? w x⟩, valOf_eq_sum w, ?_⟩
  intro xs hlen hlt
  exact ⟨valOf_lt_two_pow_valueBits hlen hlt, limbs_ofLimbs hlen hlt⟩

/-! ### The limb width is kept by the engine -/

@[simp] theorem State.modmulIssue_width (s : State) (k : Nat) (a b : Value) : (s.modmulIssue k a b).width = s.width := by
  by_cases h : s.lm = 0
  · simp [State.modmulIssue_zero s k a b h]
  · simp [State.modmulIssue_nonzero s k a b h]

/-- The check keeps the width where what follows a passed one does. -/
theorem State.modmulCheck_width (s : State) (a b : Value) (p : HintResp) {passed : State → State}
    (h : ∀ t, (passed t).width = t.width) : (s.modmulCheck a b p passed).width = s.width := by
  cases hc : check s.width a b s.lm p.q p.r with
  | true => simp [State.modmulCheck_pass s a b p passed hc, h]
  | false => simp [State.modmulCheck_fail s a b p passed hc]

@[simp] theorem State.mulmodStep_width (s : State) : s.mulmodStep.width = s.width := by
  cases h : s.hresp with
  | none => simp [State.mulmodStep_issue s h]
  | some p =>
    rw [State.mulmodStep_check s p h]
    exact State.modmulCheck_width s _ _ p fun t => t.complete_width p.r .none false

@[simp] theorem State.rsaIssue_width (s : State) : s.rsaIssue.width = s.width := by
  unfold State.rsaIssue
  split <;> simp

@[simp] theorem State.rsaFinish_width (s : State) : s.rsaFinish.width = s.width := by
  unfold State.rsaFinish
  split <;> simp

@[simp] theorem State.rsavStep_width (s : State) : s.rsavStep.width = s.width := by
  cases h : s.hresp with
  | some p =>
    rw [State.rsavStep_check s p h]
    exact State.modmulCheck_width s _ _ p fun t => t.setAcc_width p.r
  | none =>
    obtain hr | hr := Nat.lt_or_ge s.round 17
    · simp [State.rsavStep_issue s h hr]
    · simp [State.rsavStep_finish s h hr]

@[simp] theorem engineWork_width (i : Instr) (s : State) : (engineWork i s).width = s.width := by
  cases i <;> simp [engineWork]

theorem exec_width {i : Instr} {s t : State} (h : exec i s = .next t) : t.width = s.width := by
  obtain ⟨-, rfl⟩ | ⟨-, -, -, rfl⟩ | ⟨-, rfl⟩ := exec_cases h
  · exact s.accept_width i
  · exact engineWork_width i s
  · rfl

theorem State.engineTurn_width {s t : State} (h : s.engineTurn = .next t) : t.width = s.width := by
  unfold State.engineTurn at h
  split at h
  · split at h
    · exact exec_width h
    · cases h
  · cases h
    rfl

/-! ### The limb width is kept by the host port -/

@[simp] theorem State.acceptIllegal_width (s : State) (w : Word) : (s.acceptIllegal w).width = s.width := by
  unfold State.acceptIllegal
  split <;> simp

@[simp] theorem State.hintResponse_width (s : State) (p : HintResp) : (s.hintResponse p).width = s.width := by
  unfold State.hintResponse
  split <;> simp

theorem State.writeCmd_width {s t : State} {w : Word} (h : s.writeCmd w = .next t) : t.width = s.width := by
  obtain ⟨i, -, hx⟩ | ⟨-, rfl⟩ := State.writeCmd_cases h
  · exact exec_width hx
  · exact s.acceptIllegal_width w

theorem State.performHost_width {s u : State} {t : HostTxn} (h : s.performHost t = .next u) : u.width = s.width := by
  obtain ⟨d, rfl⟩ | ⟨d, rfl⟩ | rfl | rfl | ⟨a, d, -, -, -, rfl⟩ | ⟨w, -, hw⟩ := State.performHost_cases h
  · rfl
  · simp
  · simp
  · rfl
  · rfl
  · exact State.writeCmd_width hw

theorem State.issueHost_width {s u : State} {t : HostTxn} (h : s.issueHost t = .next u) : u.width = s.width := by
  obtain ⟨-, -, hp⟩ | rfl := State.issueHost_cases h
  · exact State.performHost_width hp
  · rfl

theorem State.releaseTurn_width {s u : State} (h : s.releaseTurn = .next u) : u.width = s.width := by
  obtain ⟨t, ts, -, -, hp⟩ | rfl := State.releaseTurn_cases h
  · exact (State.performHost_width hp).trans (s.setHeld_width ts)
  · rfl

/-! ### The limb width is kept by every step -/

theorem State.ownTurn_width {s t : State} (h : s.ownTurn = .next t) : t.width = s.width := by
  obtain he | hr := s.ownTurn_cases
  · exact State.engineTurn_width (he ▸ h)
  · exact State.releaseTurn_width (hr ▸ h)

theorem State.handleEvent_width {s t : State} {e : Event} (h : s.handleEvent e = .next t) : t.width = s.width := by
  cases e with
  | host x => exact State.issueHost_width h
  | release => exact State.releaseTurn_width h
  | engine => exact State.engineTurn_width h
  | hint p =>
    cases h
    exact s.hintResponse_width p
  | reset =>
    cases h
    rfl

theorem step_width {s t : State} (h : step s = .next t) : t.width = s.width := by
  obtain ⟨-, ho⟩ | ⟨e, es, -, he⟩ := step_cases h
  · exact State.ownTurn_width ho
  · exact (State.handleEvent_width he).trans (s.setEvents_width es)

/-- The fields of `CONFIG` (10_state.md R38), for both limb widths. -/
theorem configWord_fields (w : LimbWidth) :
    ((configWord w).extractLsb' 0 8).toNat = w.bits ∧ ((configWord w).extractLsb' 8 8).toNat = w.count ∧
      ((configWord w).extractLsb' 16 4).toNat = 8 ∧ (configWord w).extractLsb' 20 12 = 0 := by
  cases w <;> decide

/-- Settles O10: every move keeps the width (`step_width`), and `CONFIG` is one word per width. -/
theorem limbWidthConstant : Obligations.LimbWidthConstant :=
  ⟨fun _ _ h => step_width h, by decide, by decide, configWord_fields⟩

end Sys2Proof.Machine
end

section
/-!
PROOFS. The decoder against the encoder and the mask rows (30_encoding.md R90 to R98).
-/

namespace Sys2Proof

/-- What R90, R94 and R95 say of every command's word, from the lemma of each constructor. -/
theorem encode_fields (i : Instr) : Laws.Encoding.Statement i := by
  cases i with
  | zero d => exact Laws.Encoding.zero d
  | sub d a b => exact Laws.Encoding.sub d a b
  | mul d a b => exact Laws.Encoding.mul d a b
  | mulmod d a b m => exact Laws.Encoding.mulmod d a b m
  | rsav d a b m => exact Laws.Encoding.rsav d a b m

theorem checkFields_true_of_wellFormed {i : Instr} (h : i.WellFormed) : checkFields true i = .ok i := by
  rw [checkFields, if_pos rfl, if_pos h]

theorem checkFields_eq_ok_iff {z : Bool} {i j : Instr} : checkFields z i = .ok j ↔ i.WellFormed ∧ z = true ∧ i = j := by
  unfold checkFields
  cases z with
  | false => simp
  | true =>
    by_cases hi : i.WellFormed
    · simpa [hi] using fun e : i = j => e ▸ hi
    · simp [hi]

/-- Every well-formed command is decoded from its own word. -/
theorem decode_encode {i : Instr} (h : i.WellFormed) : decode (encode i) = .ok i := by
  cases i <;> simp [decode, encode, Instr.opcode, Instr.rd, Instr.ra, Instr.rb, Instr.rm, fieldBits,
    checkFields_true_of_wellFormed h]

/-- A word whose used fields are those of a command and whose other fields are 0 is that command's word. -/
theorem encode_eq_of_fields {i : Instr} {w : Word} (ho : opcodeOf (opcField w) = some i.opcode) (hd : rdField w = i.rd)
    (ha : raField w = fieldBits i.ra) (hb : rbField w = fieldBits i.rb) (hm : rmField w = fieldBits i.rm)
    (hr : rsvdField w = 0) : encode i = w := by
  rw [encode, code_of_opcodeOf ho, ← hd, ← ha, ← hb, ← hm, ← hr, packFields_fields]

/-- A word that decodes is the word of a well-formed command. -/
theorem decode_eq_ok_iff {w : Word} {i : Instr} : decode w = .ok i ↔ i.WellFormed ∧ encode i = w := by
  refine ⟨fun h => ?_, fun ⟨hwf, he⟩ => he ▸ decode_encode hwf⟩
  unfold decode at h
  split at h
  · cases h
  · next hr =>
    rw [not_not] at hr
    split at h
    · cases h
    all_goals
      next ho =>
      obtain ⟨hwf, hz, rfl⟩ := checkFields_eq_ok_iff.mp h
      simp only [Bool.and_eq_true, beq_iff_eq] at hz
      exact ⟨hwf, encode_eq_of_fields ho rfl (by simp [fieldBits, Instr.ra, hz]) (by simp [fieldBits, Instr.rb, hz])
        (by simp [fieldBits, Instr.rm, hz]) hr⟩

/-! ### The mask rows -/

/-- A word is known by its six fields. -/
theorem word_eq_iff_fields {w x : Word} : w = x ↔ opcField w = opcField x ∧ rdField w = rdField x ∧ raField w = raField x ∧
    rbField w = rbField x ∧ rmField w = rmField x ∧ rsvdField w = rsvdField x := by
  refine ⟨fun h => h ▸ ⟨rfl, rfl, rfl, rfl, rfl, rfl⟩, fun ⟨ho, hd, ha, hb, hm, hr⟩ => ?_⟩
  rw [← packFields_fields w, ho, hd, ha, hb, hm, hr, packFields_fields]

/-- Masked with `8`, a register field is 0 exactly when it is in range (30_encoding.md R92). -/
theorem regField_and_eight (r : RegField) : r &&& 8 = 0 ↔ regFieldOk r = true := by
  revert r
  decide

/-- A row given by its fields compares field by field. -/
theorem OpcodeRow.hits_packFields_iff (o : Opcode) (c : BitVec 8) (ma mb mm : RegField) (w : Word) :
    (OpcodeRow.mk o (packFields c 0 0 0 0 0) (packFields 255 8 ma mb mm 255)).hits w = true ↔
      opcField w = c ∧ regFieldOk (rdField w) = true ∧ raField w &&& ma = 0 ∧ rbField w &&& mb = 0 ∧ rmField w &&& mm = 0 ∧
        rsvdField w = 0 := by
  have hbyte : ∀ x : BitVec 8, x &&& 255 = x := fun x => BitVec.and_allOnes
  have hand : ∀ m : Word, opcField (w &&& m) = opcField w &&& opcField m ∧ rdField (w &&& m) = rdField w &&& rdField m ∧
      raField (w &&& m) = raField w &&& raField m ∧ rbField (w &&& m) = rbField w &&& rbField m ∧
      rmField (w &&& m) = rmField w &&& rmField m ∧ rsvdField (w &&& m) = rsvdField w &&& rsvdField m := fun m =>
    ⟨BitVec.extractLsb'_and, BitVec.extractLsb'_and, BitVec.extractLsb'_and, BitVec.extractLsb'_and, BitVec.extractLsb'_and,
      BitVec.extractLsb'_and⟩
  rw [OpcodeRow.hits, beq_iff_eq, word_eq_iff_fields]
  simp only [hand, opcField_packFields, rdField_packFields, raField_packFields, rbField_packFields, rmField_packFields,
    rsvdField_packFields, hbyte, regField_and_eight]

/-- The rows of R96 by their fields: a used register field is masked with 8 and an unused one with 15. -/
theorem opcodeRows_eq_fields : opcodeRows =
    [⟨.zero, packFields 1 0 0 0 0 0, packFields 255 8 15 15 15 255⟩, ⟨.sub, packFields 2 0 0 0 0 0, packFields 255 8 8 8 15 255⟩,
      ⟨.mul, packFields 3 0 0 0 0 0, packFields 255 8 8 8 15 255⟩, ⟨.mulmod, packFields 4 0 0 0 0 0, packFields 255 8 8 8 8 255⟩,
      ⟨.rsav, packFields 5 0 0 0 0 0, packFields 255 8 8 8 8 255⟩] := by
  decide

/-- The rows accept exactly the words the decoder accepts (30_encoding.md R96 to R98). -/
theorem legal_iff_decodes (w : Word) : legal w = true ↔ ∃ i, decode w = .ok i := by
  have hnibble : ∀ x : RegField, x &&& 15 = x := fun x => BitVec.and_allOnes
  simp only [legal, opcodeRows_eq_fields, List.any_cons, List.any_nil, Bool.or_eq_true, OpcodeRow.hits_packFields_iff, hnibble,
    regField_and_eight]
  unfold decode
  split
  · next hr =>
    have hne : ¬ rsvdField w = 0#8 := hr
    simp [hne]
  · next hr =>
    rw [not_not] at hr
    split
    · next ho =>
      have hne : ∀ o : Opcode, opcField w ≠ o.code := fun o e => by simp [e] at ho
      simp [show opcField w ≠ 1#8 from hne .zero, show opcField w ≠ 2#8 from hne .sub, show opcField w ≠ 3#8 from hne .mul,
        show opcField w ≠ 4#8 from hne .mulmod, show opcField w ≠ 5#8 from hne .rsav]
    all_goals
      next ho =>
      have hc := code_of_opcodeOf ho
      simp [← hc, hr, Opcode.code, checkFields_eq_ok_iff, Instr.WellFormed, Instr.wellFormed, optFieldOk, and_assoc, Instr.rd,
        Instr.ra, Instr.rb, Instr.rm]

end Sys2Proof
end

section
/-!
PROOFS. What one engine step and one step of the machine can do, each said once (60_exceptions.md R224).
-/

namespace Sys2Proof.Machine

/-! ### The port's fields -/

/-- `s` with other waiting transactions, moves to come and answered reads: the fields that are the model's own (log entry 3). -/
def State.withPort (s : State) (held : List HostTxn) (events : List Event) (reads : List ReadRecord) : State :=
  { s with held := held, events := events, reads := reads }

section
variable (s : State) (held : List HostTxn) (events : List Event) (reads : List ReadRecord)

@[simp] theorem State.withPort_width : (s.withPort held events reads).width = s.width := rfl
@[simp] theorem State.withPort_v : (s.withPort held events reads).v = s.v := rfl
@[simp] theorem State.withPort_cmd : (s.withPort held events reads).cmd = s.cmd := rfl
@[simp] theorem State.withPort_matched : (s.withPort held events reads).matched = s.matched := rfl
@[simp] theorem State.withPort_err : (s.withPort held events reads).err = s.err := rfl
@[simp] theorem State.withPort_hcount : (s.withPort held events reads).hcount = s.hcount := rfl
@[simp] theorem State.withPort_phase : (s.withPort held events reads).phase = s.phase := rfl
@[simp] theorem State.withPort_op : (s.withPort held events reads).op = s.op := rfl
@[simp] theorem State.withPort_dst : (s.withPort held events reads).dst = s.dst := rfl
@[simp] theorem State.withPort_la : (s.withPort held events reads).la = s.la := rfl
@[simp] theorem State.withPort_lb : (s.withPort held events reads).lb = s.lb := rfl
@[simp] theorem State.withPort_lm : (s.withPort held events reads).lm = s.lm := rfl
@[simp] theorem State.withPort_acc : (s.withPort held events reads).acc = s.acc := rfl
@[simp] theorem State.withPort_round : (s.withPort held events reads).round = s.round := rfl
@[simp] theorem State.withPort_hreq : (s.withPort held events reads).hreq = s.hreq := rfl
@[simp] theorem State.withPort_hresp : (s.withPort held events reads).hresp = s.hresp := rfl
@[simp] theorem State.withPort_held : (s.withPort held events reads).held = held := rfl
@[simp] theorem State.withPort_events : (s.withPort held events reads).events = events := rfl
@[simp] theorem State.withPort_reads : (s.withPort held events reads).reads = reads := rfl
@[simp] theorem State.withPort_draws : (s.withPort held events reads).draws = s.draws := rfl

end

/-- The engine's invariant leaves the port, the environment and the value registers free. -/
theorem State.Inv.replace {s : State} (h : s.Inv) (v : Vector Value 8) (held : List HostTxn) (events : List Event)
    (reads : List ReadRecord) : State.Inv { s with v := v, held := held, events := events, reads := reads } where
  hcount_le := h.hcount_le
  round_le := h.round_le
  hreq_iff := h.hreq_iff
  hresp_phase := h.hresp_phase
  fatal_iff := h.fatal_iff
  busy_clear := h.busy_clear
  matched_done := h.matched_done
  mismatch_done := h.mismatch_done
  running := h.running
  progress := h.progress

theorem State.Inv.withPort {s : State} (h : s.Inv) (held : List HostTxn) (events : List Event) (reads : List ReadRecord) :
    (s.withPort held events reads).Inv := h.replace s.v held events reads

theorem State.Inv.writeVal {s : State} (h : s.Inv) (a : Nat) (d : BitVec 64) : (s.writeVal a d).Inv :=
  h.replace _ s.held s.events s.reads

/-! ### The engine's step -/

/-- What the accumulator holds when a round of `RSAV` makes its request (45_rsa.md R201): the signature before round 1. -/
def State.roundAcc (s : State) : Value := if s.round = 0 then s.lb else s.acc

/-- A round of `RSAV` up to its request is that of `MODMUL` after the accumulator is set. -/
theorem State.rsaIssue_eq (s : State) : s.rsaIssue =
    (s.setAcc s.roundAcc).modmulIssue (s.round + 1) s.roundAcc ((s.setAcc s.roundAcc).rsaOperand (s.round + 1)) := by
  unfold State.rsaIssue State.roundAcc
  split <;> rfl

/-- Every outcome of the engine's step of a command in progress, by its opcode, with the guard of each. What `ZERO`, `SUB` and `MUL`
write is left open. -/
inductive EngineMove (s : State) : Opcode → State → Prop
  /-- `ZERO`, `SUB` and `MUL` complete (41_limb_vector.md R120, 42_subtractor.md R140, 43_multiplier.md R160). -/
  | compute (o : Opcode) (x : Value) (ho : o = .zero ∨ o = .sub ∨ o = .mul) : EngineMove s o (s.complete x .none false)
  /-- `MULMOD` meets a zero modulus (44_reducer.md R188). -/
  | mulmodZero (hr : s.hresp = none) (hm : s.lm = 0) : EngineMove s .mulmod (s.fatal .modulusZero)
  /-- `MULMOD` requests its hint (44_reducer.md R181). -/
  | mulmodRequest (hr : s.hresp = none) (hm : s.lm ≠ 0) : EngineMove s .mulmod (s.request 1 s.la s.lb s.lm)
  /-- `MULMOD` completes with a response that passes (44_reducer.md R180, R183). -/
  | mulmodPass (p : HintResp) (hr : s.hresp = some p) (hc : check s.width s.la s.lb s.lm p.q p.r = true) :
    EngineMove s .mulmod (s.takeResponse.complete p.r .none false)
  /-- `MULMOD` takes a response that fails (44_reducer.md R187). -/
  | mulmodFail (p : HintResp) (hr : s.hresp = some p) (hc : check s.width s.la s.lb s.lm p.q p.r = false) :
    EngineMove s .mulmod (s.takeResponse.fatal .verification)
  /-- A round of `RSAV` meets a zero modulus (45_rsa.md R202). -/
  | rsavZero (hr : s.hresp = none) (hk : s.round < 17) (hm : s.lm = 0) :
    EngineMove s .rsav ((s.setAcc s.roundAcc).fatal .modulusZero)
  /-- A round of `RSAV` requests its hint (45_rsa.md R201). -/
  | rsavRequest (hr : s.hresp = none) (hk : s.round < 17) (hm : s.lm ≠ 0) :
    EngineMove s .rsav ((s.setAcc s.roundAcc).request (s.round + 1) s.roundAcc
      ((s.setAcc s.roundAcc).rsaOperand (s.round + 1)) s.lm)
  /-- A round of `RSAV` takes a response that passes (45_rsa.md R201). -/
  | rsavPass (p : HintResp) (hr : s.hresp = some p) (hc : check s.width s.acc (s.rsaOperand s.round) s.lm p.q p.r = true) :
    EngineMove s .rsav (s.takeResponse.setAcc p.r)
  /-- A round of `RSAV` takes a response that fails (45_rsa.md R206). -/
  | rsavFail (p : HintResp) (hr : s.hresp = some p) (hc : check s.width s.acc (s.rsaOperand s.round) s.lm p.q p.r = false) :
    EngineMove s .rsav (s.takeResponse.fatal .verification)
  /-- `RSAV` completes with a match (45_rsa.md R203, R204). -/
  | rsavMatch (hr : s.hresp = none) (hk : 17 ≤ s.round) (hc : limbsEq s.width s.acc s.la = true) :
    EngineMove s .rsav (s.complete s.acc .none true)
  /-- `RSAV` completes without a match (45_rsa.md R203, R204). -/
  | rsavMismatch (hr : s.hresp = none) (hk : 17 ≤ s.round) (hc : limbsEq s.width s.acc s.la = false) :
    EngineMove s .rsav (s.complete s.acc .sigMismatch false)

theorem State.mulmodStep_move (s : State) : EngineMove s .mulmod s.mulmodStep := by
  cases hr : s.hresp with
  | none =>
    rw [State.mulmodStep_issue s hr]
    by_cases hm : s.lm = 0
    · rw [State.modmulIssue_zero s _ _ _ hm]
      exact .mulmodZero hr hm
    · rw [State.modmulIssue_nonzero s _ _ _ hm]
      exact .mulmodRequest hr hm
  | some p =>
    rw [State.mulmodStep_check s p hr]
    cases hc : check s.width s.la s.lb s.lm p.q p.r with
    | true =>
      rw [State.modmulCheck_pass s _ _ p _ hc]
      exact .mulmodPass p hr hc
    | false =>
      rw [State.modmulCheck_fail s _ _ p _ hc]
      exact .mulmodFail p hr hc

theorem State.rsaIssue_move (s : State) (hr : s.hresp = none) (hk : s.round < 17) : EngineMove s .rsav s.rsaIssue := by
  rw [State.rsaIssue_eq]
  by_cases hm : s.lm = 0
  · rw [State.modmulIssue_zero (s.setAcc s.roundAcc) _ _ _ hm]
    exact .rsavZero hr hk hm
  · rw [State.modmulIssue_nonzero (s.setAcc s.roundAcc) _ _ _ hm]
    exact .rsavRequest hr hk hm

theorem State.rsaFinish_move (s : State) (hr : s.hresp = none) (hk : 17 ≤ s.round) : EngineMove s .rsav s.rsaFinish := by
  cases hc : limbsEq s.width s.acc s.la with
  | true => simpa [State.rsaFinish, hc] using EngineMove.rsavMatch hr hk hc
  | false => simpa [State.rsaFinish, hc] using EngineMove.rsavMismatch hr hk hc

theorem State.rsavStep_move (s : State) : EngineMove s .rsav s.rsavStep := by
  cases hr : s.hresp with
  | none =>
    obtain hk | hk := Nat.lt_or_ge s.round 17
    · rw [State.rsavStep_issue s hr hk]
      exact s.rsaIssue_move hr hk
    · rw [State.rsavStep_finish s hr hk]
      exact s.rsaFinish_move hr hk
  | some p =>
    rw [State.rsavStep_check s p hr]
    cases hc : check s.width s.acc (s.rsaOperand s.round) s.lm p.q p.r with
    | true =>
      rw [State.modmulCheck_pass s _ _ p _ hc]
      exact .rsavPass p hr hc
    | false =>
      rw [State.modmulCheck_fail s _ _ p _ hc]
      exact .rsavFail p hr hc

/-- The engine's step of a command is one of its opcode's outcomes. -/
theorem engineWork_move (i : Instr) (s : State) : EngineMove s i.opcode (engineWork i s) := by
  cases i with
  | zero d => exact .compute _ _ (.inl rfl)
  | sub d a b => exact .compute _ _ (.inr (.inl rfl))
  | mul d a b => exact .compute _ _ (.inr (.inr rfl))
  | mulmod d a b m => exact s.mulmodStep_move
  | rsav d a b m => exact s.rsavStep_move

/-- Every next state the engine's turn answers with. -/
theorem State.engineTurn_cases {s t : State} (h : s.engineTurn = .next t) :
    t = s ∨ s.phase = .exec ∧ EngineMove s s.op t := by
  unfold State.engineTurn at h
  split at h
  · next hp =>
    split at h
    · next i _ =>
      obtain ⟨hi, -⟩ | ⟨-, -, ho, rfl⟩ | ⟨-, rfl⟩ := exec_cases h
      · cases hp.symm.trans hi
      · exact .inr ⟨hp, ho ▸ engineWork_move i s⟩
      · exact .inl rfl
    · cases h
  · cases h
    exact .inl rfl

/-! ### One step of the machine -/

/-- In this step the host transaction `x` may take effect, and leaves `hs` waiting and `es` to come: it is issued with none waiting, or it
is the oldest waiting one at the port's turn or the block's own (20_memory.md R66; log entries 3 and 4). -/
def State.Takes (s : State) (x : HostTxn) (hs : List HostTxn) (es : List Event) : Prop :=
  s.held = [] ∧ hs = [] ∧ s.events = .host x :: es ∨
    s.held = x :: hs ∧ (s.events = [] ∧ es = [] ∨ s.events = .release :: es)

/-- Every outcome of one step, with the guard of each (60_exceptions.md R224). -/
inductive StepMove (s : State) : State → Prop
  /-- Nothing but the port changes: a read, an access that waits or is ignored, a discarded hint, an idle turn. -/
  | port (hs : List HostTxn) (es : List Event) (rs : List ReadRecord) : StepMove s (s.withPort hs es rs)
  /-- An unmapped access (20_memory.md R64). -/
  | addressError (hs : List HostTxn) (es : List Event) (rs : List ReadRecord) : StepMove s ((s.withPort hs es rs).fatal .address)
  /-- A write of `VAL` (20_memory.md R67). -/
  | writeVal {a : Nat} {d : BitVec 64} {hs : List HostTxn} {es : List Event} (ht : s.Takes (.writeVal a d) hs es)
    (hm : s.valMapped a = true) (hh : s.phase ≠ .halted) (hb : s.busy = false) :
    StepMove s ((s.withPort hs es s.reads).writeVal a d)
  /-- A command is accepted (10_state.md R47). -/
  | accept {i : Instr} {hs : List HostTxn} {es : List Event} (ht : s.Takes (.writeCtrl 2 (encode i)) hs es) (hi : i.WellFormed)
    (hp : s.phase = .idle) : StepMove s ((s.withPort hs es s.reads).accept i)
  /-- An illegal word is written to `CMD` (30_encoding.md R98). -/
  | illegalWord {w : Word} {e : DecodeError} {hs : List HostTxn} {es : List Event} (ht : s.Takes (.writeCtrl 2 w) hs es)
    (hw : decode w = .error e) (hp : s.phase = .idle) :
    StepMove s (((s.withPort hs es s.reads).setCmd w).fatal .illegalCommand)
  /-- The engine makes a step of the command in progress. -/
  | engine {es : List Event} {t : State} (hp : s.phase = .exec) (hm : EngineMove (s.withPort s.held es s.reads) s.op t) :
    StepMove s t
  /-- A hint response arrives (20_memory.md R77). -/
  | hint {p : HintResp} {es : List Event} (he : s.events = .hint p :: es) (hp : s.phase = .hwait) :
    StepMove s ((s.withPort s.held es s.reads).receive p)
  /-- Reset (70_reset_and_hazards.md R260). -/
  | reset {es : List Event} (he : s.events = .reset :: es) : StepMove s (s.withPort s.held es s.reads).applyReset

/-- A write that the interlock lets through finds no command in progress (20_memory.md R66). -/
theorem State.not_busy_of_not_interlocked {s : State} {x : HostTxn} (hi : s.interlocked x = false)
    (hx : x.isCtrlRead = false) : s.busy = false := by
  simpa [State.interlocked, hx] using hi

theorem State.busy_of_exec {s : State} (h : s.phase = .exec) : s.busy = true := by simp [State.busy, h]

theorem State.busy_of_hwait {s : State} (h : s.phase = .hwait) : s.busy = true := by simp [State.busy, h]

section
variable {s t : State} {x : HostTxn} {w : Word} {hs : List HostTxn} {es : List Event}

theorem State.writeCmd_move (ht : s.Takes (.writeCtrl 2 w) hs es) (hb : s.busy = false)
    (h : (s.withPort hs es s.reads).writeCmd w = .next t) : StepMove s t := by
  obtain ⟨i, hd, hx⟩ | ⟨⟨e, hd⟩, rfl⟩ := State.writeCmd_cases h
  · obtain ⟨hi, rfl⟩ := decode_eq_ok_iff.mp hd
    obtain ⟨hp, rfl⟩ | ⟨hp, -⟩ | ⟨-, rfl⟩ := exec_cases hx
    · exact .accept ht hi hp
    · have hbusy : s.busy = true := State.busy_of_exec hp
      cases hb.symm.trans hbusy
    · exact .port hs es s.reads
  · unfold State.acceptIllegal
    split
    · next hp => exact .illegalWord ht hd hp
    · exact .port hs es s.reads

theorem State.performHost_move (ht : s.Takes x hs es) (hi : s.interlocked x = false)
    (h : (s.withPort hs es s.reads).performHost x = .next t) : StepMove s t := by
  obtain ⟨d, rfl⟩ | ⟨d, rfl⟩ | rfl | rfl | ⟨a, d, rfl, hm, hh, rfl⟩ | ⟨w, rfl, hw⟩ := State.performHost_cases h
  · exact .port hs es _
  · exact .addressError hs es _
  · exact .addressError hs es s.reads
  · exact .port hs es s.reads
  · exact .writeVal ht hm hh (State.not_busy_of_not_interlocked hi rfl)
  · exact State.writeCmd_move ht (State.not_busy_of_not_interlocked hi rfl) hw

theorem State.issueHost_move (he : s.events = .host x :: es) (h : (s.withPort s.held es s.reads).issueHost x = .next t) :
    StepMove s t := by
  obtain ⟨hh, hi, hx⟩ | rfl := State.issueHost_cases h
  · replace hh : s.held = [] := hh
    exact State.performHost_move (.inl ⟨hh, hh, he⟩) hi hx
  · exact .port _ es s.reads

theorem State.releaseTurn_move (he : s.events = [] ∧ es = [] ∨ s.events = .release :: es)
    (h : (s.withPort s.held es s.reads).releaseTurn = .next t) : StepMove s t := by
  obtain ⟨x, hs, hh, hi, hx⟩ | rfl := State.releaseTurn_cases h
  · exact State.performHost_move (.inr ⟨hh, he⟩) hi hx
  · exact .port s.held es s.reads

theorem State.engineTurn_move (h : (s.withPort s.held es s.reads).engineTurn = .next t) : StepMove s t := by
  obtain rfl | ⟨hp, hm⟩ := State.engineTurn_cases h
  · exact .port s.held es s.reads
  · exact .engine hp hm

theorem State.hintResponse_move {p : HintResp} (he : s.events = .hint p :: es) :
    StepMove s ((s.withPort s.held es s.reads).hintResponse p) := by
  by_cases hp : s.phase = .hwait
  · rw [State.hintResponse_hwait (s.withPort s.held es s.reads) p hp]
    exact .hint he hp
  · rw [State.hintResponse_discarded (s.withPort s.held es s.reads) p hp]
    exact .port s.held es s.reads

end

/-- Every next state a step answers with. -/
theorem step_move {s t : State} (h : step s = .next t) : StepMove s t := by
  obtain ⟨he, ho⟩ | ⟨e, es, he, hx⟩ := step_cases h
  · have hs : s = s.withPort s.held [] s.reads := by
      rw [← he]
      rfl
    rw [hs] at ho
    obtain ht | ht := (s.withPort s.held [] s.reads).ownTurn_cases
    · exact State.engineTurn_move (ht ▸ ho)
    · exact State.releaseTurn_move (.inl ⟨he, rfl⟩) (ht ▸ ho)
  · change (s.withPort s.held es s.reads).handleEvent e = .next t at hx
    cases e with
    | host x => exact State.issueHost_move he hx
    | release => exact State.releaseTurn_move (.inr he) hx
    | engine => exact State.engineTurn_move hx
    | hint p =>
      cases hx
      exact State.hintResponse_move he
    | reset =>
      cases hx
      exact .reset he

end Sys2Proof.Machine
end

section
/-!
PROOFS. The engine's invariant (10_state.md R36, R37, R41 to R44; 70_reset_and_hazards.md R267): it holds at reset (O11) and every step
keeps it (O12); what it says of `HCOUNT` where a command ends (O56).
-/

namespace Sys2Proof.Machine

/-! ### The invariant, phase by phase -/

section
variable {s : State} (hh : s.hcount.toNat ≤ 17) (hk : s.round ≤ 17)
include hh hk

/-- The invariant of an idle engine, from what it says in phase IDLE. -/
theorem State.inv_of_idle (hp : s.phase = .idle) (hq : s.hreq = none) (hr : s.hresp = none)
    (hc : s.err = .none ∧ (s.matched = true → s.hcount = 17) ∨ s.err = .sigMismatch ∧ s.matched = false ∧ s.hcount = 17) :
    s.Inv := by
  have hb : s.busy = false := by simp [State.busy, hp]
  refine ⟨hh, hk, by simp [hp, hq], by simp [hr], ?_, by simp [hb], ?_, ?_, by simp [hb], by simp [hb]⟩
  · obtain ⟨he, -⟩ | ⟨he, -, -⟩ := hc <;> simp [he, hp, ErrCode.isFatal, ErrCode.code]
  · intro hm
    obtain ⟨he, h17⟩ | ⟨-, hn, -⟩ := hc
    · exact ⟨hp, he, h17 hm⟩
    · cases hn.symm.trans hm
  · intro hs
    obtain ⟨he, -⟩ | ⟨-, hn, h17⟩ := hc
    · cases he.symm.trans hs
    · exact ⟨hp, hn, h17⟩

/-- The invariant of a busy engine, from what it says of a command in progress. -/
theorem State.inv_of_busy (hb : s.busy = true) (hq : s.hreq.isSome = true ↔ s.phase = .hwait)
    (hr : s.hresp.isSome = true → s.phase = .exec) (he : s.err = .none) (hm : s.matched = false) (hrun : s.RunningCommand)
    (hprog : s.Progress) : s.Inv := by
  have hp : s.phase ≠ .halted := fun h => by simp [State.busy, h] at hb
  exact ⟨hh, hk, hq, fun h => .inl (hr h), by simp [he, hp, ErrCode.isFatal, ErrCode.code], fun _ => ⟨he, hm⟩, by simp [hm],
    by simp [he], fun _ => hrun, fun _ => hprog⟩

/-- Fatal entry with a fatal code gives the invariant. -/
theorem State.inv_fatal {code : ErrCode} (hp : s.phase ≠ .halted) (hc : code.isFatal = true) : (s.fatal code).Inv := by
  have he := State.fatal_err s code hp
  have hm := State.fatal_matched s code hp
  have hb : (s.fatal code).busy = false := by simp [State.busy]
  have hs : code ≠ .sigMismatch := by
    rintro rfl
    cases hc
  exact ⟨by simpa using hh, by simpa using hk, by simp [State.fatal_hreq s code hp], by simp, by simp [he, hc], by simp [hb],
    by simp [hm], fun h => absurd (he.symm.trans h) hs, by simp [hb], by simp [hb]⟩

end

/-! ### What the invariant says of a command in progress -/

theorem State.progress_register_iff {s : State} (ho : s.op = .zero ∨ s.op = .sub ∨ s.op = .mul) :
    s.Progress ↔ s.RoundClosed ∧ s.round = 0 := by
  obtain ho | ho | ho := ho <;> simp [State.Progress, ho]

theorem State.progress_mulmod_iff {s : State} (ho : s.op = .mulmod) :
    s.Progress ↔ s.RoundClosed ∧ s.round = 0 ∨ s.RoundOpen s.la s.lb ∧ s.round = 1 := by
  simp [State.Progress, ho]

theorem State.progress_rsav_iff {s : State} (ho : s.op = .rsav) :
    s.Progress ↔ s.RoundClosed ∧ s.round ≤ 17 ∧ (s.round ≠ 0 → s.lm ≠ 0) ∨
      s.RoundOpen s.acc (s.rsaOperand s.round) ∧ s.round ≤ 17 := by
  simp [State.Progress, ho]

/-- In phase EXEC an open round is one whose response has come in. -/
theorem State.RoundOpen.hresp_isSome {s : State} {a b : Value} (h : s.RoundOpen a b) (hp : s.phase = .exec) :
    s.hresp.isSome = true := by
  obtain ⟨-, -, ⟨hw, -, -⟩ | ⟨-, hr⟩⟩ := h
  · cases hp.symm.trans hw
  · exact hr

section
variable {s : State} (h : s.Inv) (hp : s.phase = .exec)
include h hp

theorem State.Inv.progress_exec : s.Progress := h.progress (State.busy_of_exec hp)

/-- While no response is held no round is open. -/
theorem State.Inv.roundClosed (hr : s.hresp = none) :
    s.RoundClosed ∧ (s.op = .mulmod → s.round = 0) ∧ (s.round ≠ 0 → s.lm ≠ 0) := by
  have hprog := h.progress_exec hp
  have hopen : ∀ a b, ¬ s.RoundOpen a b := fun a b ho => by simpa [hr] using ho.hresp_isSome hp
  cases ho : s.op with
  | mulmod =>
    obtain ⟨hc, h0⟩ | ⟨ho', -⟩ := (State.progress_mulmod_iff ho).mp hprog
    · exact ⟨hc, fun _ => h0, fun hne => absurd h0 hne⟩
    · exact absurd ho' (hopen _ _)
  | rsav =>
    obtain ⟨hc, -, hm⟩ | ⟨ho', -⟩ := (State.progress_rsav_iff ho).mp hprog
    · exact ⟨hc, nofun, hm⟩
    · exact absurd ho' (hopen _ _)
  | zero | sub | mul =>
    obtain ⟨hc, h0⟩ := (State.progress_register_iff (by simp [ho])).mp hprog
    exact ⟨hc, nofun, fun hne => absurd h0 hne⟩

/-- A held response belongs to the open round, which is the first of `MULMOD`. -/
theorem State.Inv.round_of_response {p : HintResp} (hr : s.hresp = some p) :
    s.lm ≠ 0 ∧ s.round = s.hcount.toNat + 1 ∧ (s.op = .mulmod → s.round = 1) := by
  have hprog := h.progress_exec hp
  have hclosed : ¬ s.RoundClosed := fun ⟨_, hn, _⟩ => by simp [hr] at hn
  cases ho : s.op with
  | mulmod =>
    obtain ⟨hc, -⟩ | ⟨⟨hm, hk, -⟩, h1⟩ := (State.progress_mulmod_iff ho).mp hprog
    · exact absurd hc hclosed
    · exact ⟨hm, hk, fun _ => h1⟩
  | rsav =>
    obtain ⟨hc, -⟩ | ⟨⟨hm, hk, -⟩, -⟩ := (State.progress_rsav_iff ho).mp hprog
    · exact absurd hc hclosed
    · exact ⟨hm, hk, nofun⟩
  | zero | sub | mul =>
    obtain ⟨hc, -⟩ := (State.progress_register_iff (by simp [ho])).mp hprog
    exact absurd hc hclosed

/-- The check counts the open round (44_reducer.md R181; log entry 5). -/
theorem State.Inv.takeResponse_hcount_toNat {p : HintResp} (hr : s.hresp = some p) :
    s.takeResponse.hcount.toNat = s.round := by
  obtain ⟨-, hk, -⟩ := h.round_of_response hp hr
  have hle := h.round_le
  rw [State.takeResponse_hcount, BitVec.toNat_add]
  change (s.hcount.toNat + 1) % 32 = s.round
  omega

/-- No request is outstanding in phase EXEC. -/
theorem State.Inv.hreq_none_of_exec : s.hreq = none := by
  simpa [hp] using h.hreq_iff

end

/-! ### Every move keeps the invariant -/

/-- The command in progress stays the one in `CMD` while `CMD`, `op` and `dst` stay. -/
theorem State.RunningCommand.congr {s t : State} (h : s.RunningCommand) (hc : t.cmd = s.cmd) (ho : t.op = s.op)
    (hd : t.dst = s.dst) : t.RunningCommand := by
  unfold State.RunningCommand
  rwa [hc, ho, hd]

section
variable {s : State} (h : s.Inv)
include h

/-- In phase IDLE the hint exchange is empty. -/
theorem State.Inv.hint_none_of_idle (hp : s.phase = .idle) : s.hreq = none ∧ s.hresp = none :=
  ⟨by simpa [hp] using h.hreq_iff, by simpa [hp] using h.hresp_phase⟩

theorem State.Inv.fatal {code : ErrCode} (hc : code.isFatal = true) : (s.fatal code).Inv := by
  by_cases hp : s.phase = .halted
  · rwa [State.fatal_of_halted s code hp]
  · exact State.inv_fatal h.hcount_le h.round_le hp hc

theorem State.Inv.accept (hp : s.phase = .idle) {i : Instr} (hi : i.WellFormed) : (s.accept i).Inv := by
  obtain ⟨hq, hr⟩ := h.hint_none_of_idle hp
  rw [State.accept_of_wellFormed s i hi]
  refine State.inv_of_busy (by simp) (by simp) rfl (by simp [hq]) (by simp) rfl rfl ⟨i, decode_encode hi, rfl, rfl⟩ ?_
  cases i <;> simp [State.Progress, State.RoundClosed, Instr.opcode, hr]

theorem State.Inv.illegalWord (hp : s.phase = .idle) (w : Word) : ((s.setCmd w).fatal .illegalCommand).Inv :=
  State.inv_fatal (s := s.setCmd w) h.hcount_le h.round_le (by simp [hp]) rfl

/-- A response opens the check of the round it answers. -/
theorem State.Inv.receive (hp : s.phase = .hwait) (p : HintResp) : (s.receive p).Inv := by
  have hb := State.busy_of_hwait hp
  obtain ⟨he, hm⟩ := h.busy_clear hb
  have hnc : ¬ s.RoundClosed := fun ⟨hx, _⟩ => by cases hp.symm.trans hx
  have hopen : ∀ a b, s.RoundOpen a b → (s.receive p).RoundOpen a b := fun a b ⟨hz, hk, _⟩ => ⟨hz, hk, .inr ⟨rfl, rfl⟩⟩
  have hprog := h.progress hb
  refine State.inv_of_busy h.hcount_le h.round_le rfl (by simp) (by simp) he hm ((h.running hb).congr rfl rfl rfl) ?_
  cases ho : s.op with
  | mulmod =>
    obtain ⟨hc, -⟩ | ⟨hr, h1⟩ := (State.progress_mulmod_iff ho).mp hprog
    · exact absurd hc hnc
    · exact (State.progress_mulmod_iff (s := s.receive p) ho).mpr (.inr ⟨hopen _ _ hr, h1⟩)
  | rsav =>
    obtain ⟨hc, -⟩ | ⟨hr, hk⟩ := (State.progress_rsav_iff ho).mp hprog
    · exact absurd hc hnc
    · exact (State.progress_rsav_iff (s := s.receive p) ho).mpr (.inr ⟨hopen _ _ hr, hk⟩)
  | zero | sub | mul => exact absurd ((State.progress_register_iff (by simp [ho])).mp hprog).1 hnc

/-- A completion keeps the invariant when the hint exchange is over and a match or mismatch comes after 17 rounds. -/
theorem State.Inv.complete (hp : s.phase = .exec) (hr : s.hresp = none) (x : Value) {code : ErrCode} {m : Bool}
    (hc : code = .none ∧ (m = true → s.hcount = 17) ∨ code = .sigMismatch ∧ m = false ∧ s.hcount = 17) :
    (s.complete x code m).Inv :=
  State.inv_of_idle h.hcount_le h.round_le rfl (h.hreq_none_of_exec hp) hr hc

end

section
variable {s : State} (h : s.Inv) (hp : s.phase = .exec)
include h hp

/-- A completion right after a passed check keeps the invariant (`MULMOD`). -/
theorem State.Inv.takeResponse_complete {p : HintResp} (hr : s.hresp = some p) (x : Value) :
    (s.takeResponse.complete x .none false).Inv := by
  have hk := (h.takeResponse_hcount_toNat hp hr).trans_le h.round_le
  exact State.inv_of_idle hk h.round_le rfl (h.hreq_none_of_exec hp) rfl (.inl ⟨rfl, nofun⟩)

theorem State.Inv.takeResponse_fatal {p : HintResp} (hr : s.hresp = some p) :
    (s.takeResponse.fatal .verification).Inv :=
  State.inv_fatal ((h.takeResponse_hcount_toNat hp hr).trans_le h.round_le) h.round_le (by simp [hp]) rfl

theorem State.Inv.request_mulmod (ho : s.op = .mulmod) (hr : s.hresp = none) (hm : s.lm ≠ 0) :
    (s.request 1 s.la s.lb s.lm).Inv := by
  have hb := State.busy_of_exec hp
  obtain ⟨he, hma⟩ := h.busy_clear hb
  obtain ⟨⟨-, -, hk⟩, h0, -⟩ := h.roundClosed hp hr
  refine State.inv_of_busy h.hcount_le (by simp) rfl (by simp) (by simp [hr]) he hma ((h.running hb).congr rfl rfl rfl) ?_
  exact (State.progress_mulmod_iff (s := s.request 1 s.la s.lb s.lm) ho).mpr
    (.inr ⟨⟨hm, by simp [← hk, h0 ho], .inl ⟨rfl, hr, rfl⟩⟩, rfl⟩)

theorem State.Inv.request_rsav (ho : s.op = .rsav) (hr : s.hresp = none) (hk : s.round < 17) (hm : s.lm ≠ 0) (x : Value) :
    ((s.setAcc x).request (s.round + 1) x ((s.setAcc x).rsaOperand (s.round + 1)) s.lm).Inv := by
  have hb := State.busy_of_exec hp
  obtain ⟨he, hma⟩ := h.busy_clear hb
  obtain ⟨⟨-, -, hround⟩, -, -⟩ := h.roundClosed hp hr
  refine State.inv_of_busy h.hcount_le hk rfl (by simp) (by simp [hr]) he hma ((h.running hb).congr rfl rfl rfl) ?_
  exact (State.progress_rsav_iff (s := (s.setAcc x).request (s.round + 1) x _ s.lm) ho).mpr
    (.inr ⟨⟨hm, by simp [hround], .inl ⟨rfl, hr, rfl⟩⟩, hk⟩)

theorem State.Inv.takeResponse_setAcc (ho : s.op = .rsav) {p : HintResp} (hr : s.hresp = some p) (x : Value) :
    (s.takeResponse.setAcc x).Inv := by
  have hb := State.busy_of_exec hp
  obtain ⟨he, hma⟩ := h.busy_clear hb
  obtain ⟨hm, -, -⟩ := h.round_of_response hp hr
  have hk := h.takeResponse_hcount_toNat hp hr
  refine State.inv_of_busy (hk.trans_le h.round_le) h.round_le hb h.hreq_iff nofun he hma ((h.running hb).congr rfl rfl rfl) ?_
  exact (State.progress_rsav_iff (s := s.takeResponse.setAcc x) ho).mpr (.inl ⟨⟨hp, rfl, hk.symm⟩, h.round_le, fun _ => hm⟩)

/-- The end of the `RSAV` schedule finds 17 counted responses. -/
theorem State.Inv.hcount_of_finish (hr : s.hresp = none) (hk : 17 ≤ s.round) : s.hcount = 17 := by
  obtain ⟨⟨-, -, hround⟩, -, -⟩ := h.roundClosed hp hr
  have hle := h.round_le
  exact BitVec.eq_of_toNat_eq (hround.symm.trans (le_antisymm hle hk))

/-- A command of the three that use no hint is at its only step. -/
theorem State.Inv.register_closed (ho : s.op = .zero ∨ s.op = .sub ∨ s.op = .mul) : s.hresp = none ∧ s.hcount = 0 := by
  obtain ⟨⟨-, hr, hk⟩, h0⟩ := (State.progress_register_iff ho).mp (h.progress_exec hp)
  exact ⟨hr, BitVec.eq_of_toNat_eq (hk.symm.trans h0)⟩

theorem State.Inv.engineMove {t : State} (hm : EngineMove s s.op t) : t.Inv := by
  generalize ho : s.op = o at hm
  cases hm with
  | compute _ x hreg => exact h.complete hp (h.register_closed hp (ho ▸ hreg)).1 x (.inl ⟨rfl, nofun⟩)
  | mulmodZero => exact h.fatal rfl
  | mulmodRequest hr hz => exact h.request_mulmod hp ho hr hz
  | mulmodPass p hr => exact h.takeResponse_complete hp hr p.r
  | mulmodFail p hr | rsavFail p hr => exact h.takeResponse_fatal hp hr
  | rsavZero => exact State.inv_fatal (s := s.setAcc s.roundAcc) h.hcount_le h.round_le (by simp [hp]) rfl
  | rsavRequest hr hk hz => exact h.request_rsav hp ho hr hk hz _
  | rsavPass p hr => exact h.takeResponse_setAcc hp ho hr p.r
  | rsavMatch hr hk => exact h.complete hp hr _ (.inl ⟨rfl, fun _ => h.hcount_of_finish hp hr hk⟩)
  | rsavMismatch hr hk => exact h.complete hp hr _ (.inr ⟨rfl, rfl, h.hcount_of_finish hp hr hk⟩)

end

theorem State.resetAt_inv (w : LimbWidth) : (State.resetAt w).Inv :=
  State.inv_of_idle (by simp [State.resetAt]) (by simp [State.resetAt]) rfl rfl rfl (.inl ⟨rfl, nofun⟩)

theorem State.applyReset_inv (s : State) : s.applyReset.Inv :=
  State.inv_of_idle (by simp) (by simp) rfl rfl rfl (.inl ⟨rfl, nofun⟩)

/-- Settles O12: `StepMove` lists what a step can do, and each of its moves keeps the invariant. -/
theorem engineInvariantKept : Obligations.EngineInvariantKept := by
  intro s t h hstep
  have hport := fun hs es rs => h.withPort hs es rs
  cases step_move hstep with
  | port hs es rs => exact hport hs es rs
  | addressError hs es rs => exact (hport hs es rs).fatal rfl
  | @writeVal a d hs es => exact (hport hs es s.reads).writeVal a d
  | @accept i hs es _ hi hp => exact (hport hs es s.reads).accept hp hi
  | @illegalWord w _ hs es _ _ hp => exact (hport hs es s.reads).illegalWord hp w
  | @engine es _ hp hm => exact (hport s.held es s.reads).engineMove hp hm
  | @hint p es _ hp => exact (hport s.held es s.reads).receive hp p
  | reset => exact State.applyReset_inv _

/-- Settles O11: the machine starts in the reset state for L = 64, and both reset states have the invariant. -/
theorem engineInvariantAtReset : Obligations.EngineInvariantAtReset :=
  ⟨rfl, State.resetAt_inv .l64, State.resetAt_inv⟩

/-! ### `HCOUNT` where a command ends -/

/-- The modular multiplies of a whole command (10_state.md R37). -/
def Opcode.modmuls : Opcode → Nat
  | .mulmod => 1
  | .rsav => 17
  | _ => 0

section
variable {s t : State} (h : s.Inv) (hp : s.phase = .exec)
include h hp

/-- A zero modulus is met before any response is counted (44_reducer.md R188). -/
theorem State.Inv.hcount_of_modulus_zero (hr : s.hresp = none) (hm : s.lm = 0) : s.hcount = 0 := by
  obtain ⟨⟨-, -, hk⟩, -, hz⟩ := h.roundClosed hp hr
  have h0 : s.round = 0 := not_not.mp fun hne => hz hne hm
  exact BitVec.eq_of_toNat_eq (hk.symm.trans h0)

theorem State.Inv.hcount_of_completion (hm : EngineMove s s.op t) (hi : t.phase = .idle) :
    t.hcount.toNat = Opcode.modmuls s.op := by
  generalize ho : s.op = o at hm ⊢
  cases hm with
  | compute _ x hreg =>
    have h0 : s.hcount = 0 := (h.register_closed hp (ho ▸ hreg)).2
    rw [State.complete_hcount, h0]
    obtain rfl | rfl | rfl := hreg <;> rfl
  | mulmodPass p hr =>
    obtain ⟨-, -, h1⟩ := h.round_of_response hp hr
    exact (h.takeResponse_hcount_toNat hp hr).trans (h1 ho)
  | rsavMatch hr hk | rsavMismatch hr hk => exact congrArg BitVec.toNat (h.hcount_of_finish hp hr hk)
  | mulmodZero | mulmodFail | rsavZero | rsavFail => simp at hi
  | mulmodRequest | rsavRequest => simp at hi
  | rsavPass => simp [hp] at hi

theorem State.Inv.hcount_of_fatal (hm : EngineMove s s.op t) (hi : t.phase = .halted) :
    t.err = .verification ∧ t.hcount.toNat = s.round ∨ t.err = .modulusZero ∧ t.hcount = 0 := by
  have hn : s.phase ≠ .halted := by simp [hp]
  generalize s.op = o at hm
  cases hm with
  | mulmodZero hr hm =>
    exact .inr ⟨State.fatal_err s _ hn, by rw [State.fatal_hcount, h.hcount_of_modulus_zero hp hr hm]⟩
  | rsavZero hr _ hm =>
    exact .inr ⟨State.fatal_err _ _ hn, by rw [State.fatal_hcount]; exact h.hcount_of_modulus_zero hp hr hm⟩
  | mulmodFail p hr | rsavFail p hr =>
    exact .inl ⟨State.fatal_err _ _ hn, by rw [State.fatal_hcount]; exact h.takeResponse_hcount_toNat hp hr⟩
  | compute | mulmodPass | rsavMatch | rsavMismatch => simp at hi
  | mulmodRequest | rsavRequest => simp at hi
  | rsavPass => simp [hp] at hi

end

/-- Settles O56: an engine step that ends its command is a completion or a fatal entry of `EngineMove`. -/
theorem hcountAtCommandEnd : Obligations.HcountAtCommandEnd := by
  intro s t h hp ht
  obtain rfl | ⟨-, hm⟩ := State.engineTurn_cases ht
  · exact ⟨fun hi => (Phase.noConfusion (hp.symm.trans hi)), fun hi => Phase.noConfusion (hp.symm.trans hi)⟩
  · refine ⟨fun hi => (h.hcount_of_completion hp hm hi).trans ?_, h.hcount_of_fatal hp hm⟩
    cases s.op <;> rfl

end Sys2Proof.Machine
end

section
/-!
PROOFS. Frames of the commands (10_state.md R32, R37, R40; O53, O54), and the only ways a value register changes (R32, R33, R46; O55).
-/

namespace Sys2Proof.Machine

/-! ### Frame of an engine step -/

section
variable {s t : State} {o : Opcode} (hm : EngineMove s o t)
include hm

/-- An engine step leaves the limb width, `CMD`, the port and the inputs. -/
theorem EngineMove.frame :
    t.width = s.width ∧ t.cmd = s.cmd ∧ t.held = s.held ∧ t.events = s.events ∧ t.reads = s.reads := by
  cases hm <;> simp

/-- An engine step completes the command and writes its destination alone, or it writes no register. -/
theorem EngineMove.v_cases (hp : s.phase = .exec) :
    t.phase ≠ .idle ∧ t.v = s.v ∨ t.phase = .idle ∧ ∃ x, t.v = s.v.set s.dst.val x := by
  cases hm with
  | compute _ x => exact .inr ⟨rfl, x, rfl⟩
  | mulmodPass p => exact .inr ⟨rfl, p.r, rfl⟩
  | rsavMatch | rsavMismatch => exact .inr ⟨rfl, s.acc, rfl⟩
  | mulmodZero | mulmodFail | rsavZero | rsavFail => exact .inl ⟨by simp, by simp⟩
  | mulmodRequest | rsavRequest => exact .inl ⟨by simp, rfl⟩
  | rsavPass => exact .inl ⟨by simp [hp], rfl⟩

theorem EngineMove.reg_eq (hp : s.phase = .exec) {r : Fin 8} (hr : r ≠ s.dst ∨ t.phase ≠ .idle) : t.reg r = s.reg r := by
  obtain ⟨-, hv⟩ | ⟨hi, x, hv⟩ := hm.v_cases hp
  · rw [State.reg, State.reg, hv]
  · have hne : s.dst.val ≠ r.val := fun e => hr.elim (fun h => h (Fin.ext e.symm)) (fun h => h hi)
    simp only [State.reg, hv, Vector.getElem_set_ne _ _ hne]

/-- The engine step of `ZERO`, `SUB` and `MUL` is their completion. -/
theorem EngineMove.eq_complete (ho : o = .zero ∨ o = .sub ∨ o = .mul) : ∃ x, t = s.complete x .none false := by
  cases hm with
  | compute _ x => exact ⟨x, rfl⟩
  | _ => simp at ho

/-- `MULMOD` leaves the RSA accumulator. -/
theorem EngineMove.acc_of_mulmod (ho : o = .mulmod) : t.acc = s.acc := by
  cases hm with
  | mulmodZero | mulmodRequest | mulmodPass | mulmodFail => simp
  | compute _ _ hreg => simp [ho] at hreg
  | _ => cases ho

end

/-! ### Frame of a command -/

/-- Acceptance of a well-formed command leaves the outstanding request. -/
theorem State.accept_hreq {i : Instr} (hi : i.WellFormed) (s : State) : (s.accept i).hreq = s.hreq := by
  rw [State.accept_of_wellFormed s i hi]
  rfl

/-- Reading `VAL` depends on the limb width and the register alone. -/
theorem State.readVal_congr {s t : State} {a : Nat} (hw : t.width = s.width)
    (hr : t.reg (s.valReg a) = s.reg (s.valReg a)) : t.readVal a = s.readVal a := by
  have hreg : t.valReg a = s.valReg a := by simp [State.valReg, hw]
  rw [State.readVal, State.readVal, hreg, hr, State.valLimb, State.valLimb, hw]

section
variable {i : Instr} {s t : State} (h : exec i s = .next t)
include h

/-- In phase EXEC `exec` makes an engine step of its command or changes nothing. -/
theorem exec_move_of_exec (hp : s.phase = .exec) : t = s ∨ EngineMove s i.opcode t := by
  obtain ⟨hi, -⟩ | ⟨-, -, -, rfl⟩ | ⟨-, rfl⟩ := exec_cases h
  · cases hp.symm.trans hi
  · exact .inr (engineWork_move i s)
  · exact .inl rfl

/-- In the phases HWAIT and HALTED `exec` changes nothing (log entry 13). -/
theorem exec_eq_self (hi : s.phase ≠ .idle) (hx : s.phase ≠ .exec) : t = s := by
  obtain ⟨hp, -⟩ | ⟨hp, -⟩ | ⟨-, ht⟩ := exec_cases h
  · exact absurd hp hi
  · exact absurd hp hx
  · exact ht

/-- Outside phase EXEC `exec` is acceptance or changes nothing. -/
theorem exec_not_exec (hx : s.phase ≠ .exec) : s.phase = .idle ∧ t = s.accept i ∨ t = s := by
  obtain hi | ⟨hp, -⟩ | ⟨-, ht⟩ := exec_cases h
  · exact .inl hi
  · exact absurd hp hx
  · exact .inr ht

/-- `exec` leaves the port and the inputs. -/
theorem exec_port : t.held = s.held ∧ t.events = s.events ∧ t.reads = s.reads := by
  obtain ⟨-, rfl⟩ | ⟨-, -, -, rfl⟩ | ⟨-, rfl⟩ := exec_cases h
  · simp
  · exact (engineWork_move i s).frame.2.2
  · exact ⟨rfl, rfl, rfl⟩

/-- `exec` writes at most the latched destination, and that in a completion. -/
theorem exec_reg {r : Fin 8} (hr : s.phase ≠ .exec ∨ r ≠ s.dst ∨ t.phase ≠ .idle) : t.reg r = s.reg r := by
  obtain ⟨-, rfl⟩ | ⟨hp, -, -, rfl⟩ | ⟨-, rfl⟩ := exec_cases h
  · rw [State.reg, State.reg, State.accept_v]
  · exact (engineWork_move i s).reg_eq hp (hr.resolve_left (not_not.mpr hp))
  · rfl

theorem exec_readVal {a : Nat} (hr : s.phase ≠ .exec ∨ s.valReg a ≠ s.dst ∨ t.phase ≠ .idle) : t.readVal a = s.readVal a :=
  State.readVal_congr (exec_width h) (exec_reg h hr)

/-- `CMD` changes only at acceptance (10_state.md R35). -/
theorem exec_cmd (hi : s.phase ≠ .idle) : t.cmd = s.cmd := by
  obtain ⟨hp, -⟩ | ⟨-, -, -, rfl⟩ | ⟨-, rfl⟩ := exec_cases h
  · exact absurd hp hi
  · exact (engineWork_move i s).frame.2.1
  · rfl

/-- The accumulator and the hint exchange change only in phase EXEC. -/
theorem exec_hint_not_exec (hwf : i.WellFormed) (hx : s.phase ≠ .exec) :
    t.acc = s.acc ∧ t.hreq = s.hreq ∧ t.hresp = s.hresp := by
  obtain ⟨-, rfl⟩ | rfl := exec_not_exec h hx
  · exact ⟨s.accept_acc i, s.accept_hreq hwf, s.accept_hresp i⟩
  · exact ⟨rfl, rfl, rfl⟩

/-- `ZERO`, `SUB` and `MUL` leave the accumulator and the hint exchange in every phase. -/
theorem exec_hint_of_register (hwf : i.WellFormed) (ho : i.opcode = .zero ∨ i.opcode = .sub ∨ i.opcode = .mul) :
    t.acc = s.acc ∧ t.hreq = s.hreq ∧ t.hresp = s.hresp := by
  by_cases hp : s.phase = .exec
  · obtain rfl | hm := exec_move_of_exec h hp
    · exact ⟨rfl, rfl, rfl⟩
    · obtain ⟨x, rfl⟩ := hm.eq_complete ho
      exact ⟨rfl, rfl, rfl⟩
  · exact exec_hint_not_exec h hwf hp

/-- The rounds of `ZERO`, `SUB` and `MUL` are those of acceptance, which are none. -/
theorem exec_rounds_of_register (ho : i.opcode = .zero ∨ i.opcode = .sub ∨ i.opcode = .mul) (hi : s.phase ≠ .idle) :
    t.hcount = s.hcount ∧ t.round = s.round := by
  obtain ⟨hp, -⟩ | ⟨-, -, -, rfl⟩ | ⟨-, rfl⟩ := exec_cases h
  · exact absurd hp hi
  · obtain ⟨x, hx⟩ := (engineWork_move i s).eq_complete ho
    rw [hx]
    exact ⟨rfl, rfl⟩
  · exact ⟨rfl, rfl⟩

theorem exec_acc_of_mulmod (ho : i.opcode = .mulmod) : t.acc = s.acc := by
  obtain ⟨-, rfl⟩ | ⟨-, -, -, rfl⟩ | ⟨-, rfl⟩ := exec_cases h
  · exact s.accept_acc i
  · exact (engineWork_move i s).acc_of_mulmod ho
  · rfl

end

/-- Settles O53: in phase EXEC the command completes, in IDLE it is accepted, and else nothing changes. -/
theorem registerCommandFrame : Obligations.RegisterCommandFrame := by
  intro i s t hwf ho h
  obtain ⟨hheld, hevents, hreads⟩ := exec_port h
  obtain ⟨hacc, hreq, hresp⟩ := exec_hint_of_register h hwf ho
  exact ⟨fun r hr => exec_reg h (hr.imp_right .inl), fun a ha => exec_readVal h (ha.imp_right .inl), exec_width h, hacc, hreq,
    hresp, hheld, hevents, hreads, fun hi => ⟨exec_cmd h hi, exec_rounds_of_register h ho hi⟩, exec_eq_self h⟩

/-- Settles O54: as O53, with a destination written only by a completion. -/
theorem hintCommandFrame : Obligations.HintCommandFrame := by
  intro i s t hwf _ h
  obtain ⟨hheld, hevents, hreads⟩ := exec_port h
  exact ⟨fun r => exec_reg h, fun a => exec_readVal h, exec_width h, hheld, hevents, hreads, exec_cmd h, exec_acc_of_mulmod h,
    exec_hint_not_exec h hwf, exec_eq_self h⟩

/-! ### The value registers over a step -/

/-- A host write that takes effect stands where R66 and R70 let it. -/
theorem State.Takes.source {s : State} {x : HostTxn} {hs : List HostTxn} {es : List Event} (h : s.Takes x hs es) :
    s.held = [] ∧ (∃ es, s.events = .host x :: es) ∨
      (∃ hs, s.held = x :: hs) ∧ (s.events = [] ∨ ∃ es, s.events = .release :: es) := by
  obtain ⟨hh, -, he⟩ | ⟨hh, he⟩ := h
  · exact .inl ⟨hh, es, he⟩
  · exact .inr ⟨⟨hs, hh⟩, he.imp And.left fun he => ⟨es, he⟩⟩

/-- Settles O55: of the moves a step can be, `StepMove` writes registers in three. -/
theorem registersChangeOnlyByRule : Obligations.RegistersChangeOnlyByRule := by
  intro s t hstep
  cases step_move hstep with
  | port => exact ⟨.inl rfl, fun _ => rfl⟩
  | addressError hs es rs => exact ⟨.inl (by simp), fun _ => by simp⟩
  | writeVal ht hm hh hb =>
    exact ⟨.inr (.inr (.inl ⟨_, _, of_decide_eq_true hm, hh, hb, rfl, rfl, ht.source⟩)), fun hp => absurd hp hh⟩
  | accept => exact ⟨.inl (by simp), fun _ => by simp⟩
  | illegalWord => exact ⟨.inl (by simp), fun _ => by simp⟩
  | engine hp hm =>
    obtain ⟨-, hv⟩ | ⟨hi, x, hv⟩ := hm.v_cases hp
    · exact ⟨.inl hv, fun _ => hv⟩
    · exact ⟨.inr (.inr (.inr ⟨hp, hi, x, hv⟩)), fun hh => by cases hi.symm.trans hh⟩
  | hint => exact ⟨.inl rfl, fun _ => rfl⟩
  | reset he => exact ⟨.inr (.inl ⟨_, he⟩), nofun⟩

end Sys2Proof.Machine
end

section
/-!
PROOFS. Acceptance of a command and the step that runs it (10_state.md R35, R37, R42, R47, R68; O15, O16, O17).
-/

namespace Sys2Proof.Machine

/-! ### Acceptance -/

theorem regNum_val {f : RegField} (h : f.toNat < 8) : (regNum f).val = f.toNat := Nat.mod_eq_of_lt h

/-- A field in range names its own register (30_encoding.md R92). -/
theorem State.reg_regNum (s : State) {f : RegField} (h : f.toNat < 8) : s.reg (regNum f) = s.v[f.toNat] := by
  simp only [State.reg, regNum_val h]

theorem State.latchValue_some (s : State) {f : RegField} {r : Option RegField} (n : Nat) (hf : r = some f) (h : f.toNat < 8) :
    s.latchValue r n = s.v[f.toNat] := by
  rw [hf]
  exact s.reg_regNum h

theorem rd_lt_of_wellFormed {i : Instr} (h : i.WellFormed) : i.rd.toNat < 8 := by
  simp only [Instr.WellFormed, Instr.wellFormed, Bool.and_eq_true] at h
  obtain ⟨⟨⟨hd, -⟩, -⟩, -⟩ := h
  exact of_decide_eq_true hd

/-- The latched fields of a command, read off its word (30_encoding.md R90, R94). -/
theorem State.latchValue_fields (s : State) (i : Instr) (n : Nat) :
    (i.opcode ≠ .zero → s.latchValue i.ra n = s.reg (regNum (raField (encode i))) ∧
      s.latchValue i.rb n = s.reg (regNum (rbField (encode i)))) ∧
    (i.opcode = .mulmod ∨ i.opcode = .rsav → s.latchValue i.rm n = s.reg (regNum (rmField (encode i)))) := by
  obtain ⟨-, -, ha, -, hb, -, hm, -, -⟩ := encode_fields i
  cases i with
  | zero d => exact ⟨fun h => absurd rfl h, fun h => by simp [Instr.opcode] at h⟩
  | sub d a b | mul d a b => exact ⟨fun _ => ⟨by rw [ha a rfl]; rfl, by rw [hb b rfl]; rfl⟩, fun h => by simp [Instr.opcode] at h⟩
  | mulmod d a b m | rsav d a b m =>
    exact ⟨fun _ => ⟨by rw [ha a rfl]; rfl, by rw [hb b rfl]; rfl⟩, fun _ => by rw [hm m rfl]; rfl⟩

/-- Acceptance of a well-formed command by `exec`. -/
theorem exec_idle_start {i : Instr} (s : State) (hi : i.WellFormed) (hp : s.phase = .idle) :
    exec i s = .next ((s.setCmd (encode i)).start i.opcode (regNum i.rd) (s.latchValue i.ra s.draws)
      (s.latchValue i.rb (s.draws + 1)) (s.latchValue i.rm (s.draws + 2))) := by
  rw [exec_idle i s hp, State.accept_of_wellFormed s i hi]

/-- Settles O16: acceptance is `start` on the state with the word in `CMD`. -/
theorem idleAcceptsCommand : Obligations.IdleAcceptsCommand := by
  intro i s hwf hp
  refine ⟨_, exec_idle_start s hwf hp, rfl, rfl, regNum_val (rd_lt_of_wellFormed hwf), ?_, ?_, ?_, rfl, rfl, rfl, rfl, rfl, rfl, rfl,
    rfl, rfl, rfl, rfl, rfl, rfl, rfl⟩
  all_goals exact fun f hf he => s.latchValue_some _ he hf

/-! ### A write to `CMD` -/

theorem State.writeCmd_of_decode (s : State) {w : Word} {i : Instr} (h : decode w = .ok i) : s.writeCmd w = exec i s := by
  simp [State.writeCmd, h]

theorem State.writeCmd_of_not_legal (s : State) {w : Word} (h : legal w = false) : s.writeCmd w = .next (s.acceptIllegal w) := by
  cases hd : decode w with
  | ok i => simp [(legal_iff_decodes w).mpr ⟨i, hd⟩] at h
  | error e => simp [State.writeCmd, hd]

/-- With none waiting and no command in progress a host access takes effect at once (20_memory.md R66). -/
theorem State.issueHost_of_free (s : State) (x : HostTxn) (hh : s.held = []) (hb : s.busy = false) :
    s.issueHost x = s.performHost x := by
  rw [State.issueHost, if_pos ⟨hh, s.interlocked_of_not_busy x hb⟩]

/-- Under the interlock a host access waits (20_memory.md R66). -/
theorem State.issueHost_of_interlocked (s : State) (x : HostTxn) (h : s.interlocked x = true) :
    s.issueHost x = .next (s.hold x) := by
  rw [State.issueHost, if_neg]
  rintro ⟨-, hi⟩
  cases h.symm.trans hi

theorem State.not_busy {s : State} (hp : s.phase = .idle ∨ s.phase = .halted) : s.busy = false := by
  obtain hp | hp := hp <;> simp [State.busy, hp]

theorem State.busy_iff {s : State} : s.busy = true ↔ s.phase = .exec ∨ s.phase = .hwait := by simp [State.busy]

/-- A legal word written to `CMD` runs its command (30_encoding.md R98). -/
theorem State.writeCmd_of_encode (s : State) {i : Instr} (hi : i.WellFormed) : s.writeCmd (encode i) = exec i s :=
  s.writeCmd_of_decode (decode_encode hi)

theorem State.writeCmd_of_halted (s : State) (w : Word) (hp : s.phase = .halted) : s.writeCmd w = .next s := by
  cases hd : decode w with
  | ok i => rw [s.writeCmd_of_decode hd, exec_eq_runCommand, State.runCommand_halted s i _ hp]
  | error e => simp [State.writeCmd, hd, State.acceptIllegal, hp]

theorem State.acceptIllegal_of_idle (s : State) (w : Word) (hp : s.phase = .idle) :
    s.acceptIllegal w = (s.setCmd w).fatal .illegalCommand := by
  rw [State.acceptIllegal, if_pos hp]

/-- Settles O17: a legal word is the word of a well-formed command, whose acceptance O16 tells. -/
theorem cmdWriteAccept : Obligations.CmdWriteAccept := by
  intro s w
  refine ⟨fun hp hl => ?_, fun hp hl => ?_, fun hp => ?_, s.writeCmd_of_halted w⟩
  · obtain ⟨i, hd⟩ := (legal_iff_decodes w).mp hl
    obtain ⟨hwf, rfl⟩ := decode_eq_ok_iff.mp hd
    obtain ⟨hopc, hrd, -⟩ := encode_fields i
    exact ⟨_, (s.writeCmd_of_encode hwf).trans (exec_idle_start s hwf hp), rfl, hopc.symm, by rw [hrd]; exact regNum_val (rd_lt_of_wellFormed hwf),
      fun ho => ⟨((s.latchValue_fields i _).1 ho).1, ((s.latchValue_fields i _).1 ho).2⟩, (s.latchValue_fields i _).2,
      rfl, rfl, rfl, rfl, rfl, rfl, rfl⟩
  · rw [s.writeCmd_of_not_legal hl, s.acceptIllegal_of_idle w hp]
    exact ⟨_, rfl, by simp, by simp, State.fatal_err _ _ (by simp [hp]), by simp⟩
  · exact s.issueHost_of_interlocked _ (by simp [State.interlocked, State.busy_iff.mpr hp, HostTxn.isCtrlRead])

/-! ### The step that runs a command -/

/-- A `CMD` write that may take effect runs its command. -/
theorem step_cmdWrite {s : State} {w : Word} {i : Instr} {es : List Event} (he : s.events = .host (.writeCtrl 2 w) :: es)
    (hh : s.held = []) (hp : s.phase = .idle ∨ s.phase = .halted) (hd : decode w = .ok i) : step s = exec i (s.setEvents es) := by
  rw [step_event s _ es he, State.handleEvent, State.issueHost_of_free (s.setEvents es) _ hh (State.not_busy (s := s) hp)]
  exact State.writeCmd_of_decode _ hd

/-- Settles O15: each clause evaluates the step's one move. -/
theorem stepRunsDecodedCommand : Obligations.StepRunsDecodedCommand := by
  refine ⟨fun s w i es => step_cmdWrite, fun s i es he hp hd => ?_, fun s i he hh hp hd => ?_, fun s w i hw => ?_⟩
  · rw [step_event s _ es he]
    exact State.engineTurn_exec (s.setEvents es) i hp hd
  · rw [step_no_event s he, State.ownTurn, hh]
    exact State.engineTurn_exec s i hp hd
  · have hd : decode (BitVec.ofNat 32 (w % 2 ^ 32)) = .ok i := by
      unfold decodeTableWord at hw
      split at hw
      · next j hj => rw [hj, Option.some.inj hw]
      · cases hw
    exact step_cmdWrite (s := s.withFetchWord 32 w) rfl rfl (.inl rfl) hd

end Sys2Proof.Machine
end

section
/-!
PROOFS. What every piece of state holds after reset (10_state.md R51; O6) and how `STATUS` shows it (R36, R41; O9).
-/

namespace Sys2Proof.Machine

/-! ### Reset -/

theorem valOf_replicate_zero (w : LimbWidth) (n : Nat) : valOf w (List.replicate n 0) = 0 := by
  induction n with
  | zero => rfl
  | succ n ih => rw [List.replicate_succ, valOf, ih, Nat.mul_zero]

/-- `zero()` is the value 0 (41_limb_vector.md R121). -/
theorem zeroValue_eq_zero (w : LimbWidth) : zeroValue w = 0 := by
  rw [zeroValue, ofLimbs, valOf_replicate_zero]
  rfl

theorem limbOf_zero (w : LimbWidth) (i : Nat) : limbOf w 0 i = 0 := by
  have h0 : (0 : Value).toNat = 0 := BitVec.toNat_zero
  rw [limbOf, h0, Nat.zero_div, Nat.zero_mod]

theorem State.resetAt_reg (w : LimbWidth) (r : Fin 8) : (State.resetAt w).reg r = 0 := by
  simp [State.reg, State.resetAt]

/-- The reset input gives the reset state of the limb width, but for the port and the counter of free values. -/
theorem State.eq_resetAt {w : LimbWidth} {t : State} (h : t = State.resetAt w ∨ ∃ s : State, s.width = w ∧ t = s.applyReset) :
    ∃ held events reads draws,
      t = { State.resetAt w with held := held, events := events, reads := reads, draws := draws } := by
  obtain rfl | ⟨s, rfl, rfl⟩ := h
  · exact ⟨[], [], [], 0, rfl⟩
  · exact ⟨s.held, s.events, s.reads, s.draws, rfl⟩

/-- Settles O6: both kinds of reset state are `resetAt`, but for fields R51 says nothing of. -/
theorem resetValues : Obligations.ResetValues := by
  intro w t h
  obtain ⟨held, events, reads, draws, rfl⟩ := State.eq_resetAt h
  refine ⟨fun r i => ?_, fun r => ?_, rfl, rfl, rfl, rfl, rfl, rfl, rfl, rfl, ?_, rfl, rfl, rfl, rfl, rfl⟩
  · exact (congrArg (limbOf w · i) (State.resetAt_reg w r)).trans (limbOf_zero w i)
  · exact (State.resetAt_reg w r).trans (zeroValue_eq_zero w).symm
  · change configWord w = _
    cases w <;> rfl

/-! ### `STATUS` -/

/-- `STATUS` as a sum: no field runs over into the next. -/
theorem State.statusWord_toNat (s : State) : s.statusWord.toNat = 256 * s.hcount.toNat + 16 * s.err.code.toNat +
    8 * s.fatalBit.toNat + 4 * s.matched.toNat + 2 * s.hwaiting.toNat + s.busy.toNat := by
  have h1 := s.hcount.isLt
  have h2 := s.err.code.isLt
  have h3 := Bool.toNat_le s.fatalBit
  have h4 := Bool.toNat_le s.matched
  have h5 := Bool.toNat_le s.hwaiting
  have h6 := Bool.toNat_le s.busy
  rw [State.statusWord, BitVec.toNat_ofNat]
  norm_num at *
  omega

/-- A bit of a word, by its number. -/
theorem getLsbD_eq_of_toNat {w : Word} {k : Nat} {b : Bool} (h : w.toNat / 2 ^ k % 2 = b.toNat) : w.getLsbD k = b := by
  rw [← BitVec.testBit_toNat, Nat.testBit_eq_decide_div_mod_eq, h]
  cases b <;> rfl

/-- The layout of R36, field by field. -/
theorem State.statusWord_fields (s : State) :
    s.statusWord.getLsbD 0 = s.busy ∧ s.statusWord.getLsbD 1 = s.hwaiting ∧ s.statusWord.getLsbD 2 = s.matched ∧
      s.statusWord.getLsbD 3 = s.fatalBit ∧ s.statusWord.extractLsb' 4 4 = s.err.code ∧
      s.statusWord.extractLsb' 8 5 = s.hcount ∧ s.statusWord.extractLsb' 13 19 = 0 := by
  have h1 := s.hcount.isLt
  have h2 := s.err.code.isLt
  have h3 := Bool.toNat_le s.fatalBit
  have h4 := Bool.toNat_le s.matched
  have h5 := Bool.toNat_le s.hwaiting
  have h6 := Bool.toNat_le s.busy
  refine ⟨getLsbD_eq_of_toNat ?_, getLsbD_eq_of_toNat ?_, getLsbD_eq_of_toNat ?_, getLsbD_eq_of_toNat ?_,
    BitVec.eq_of_toNat_eq ?_, BitVec.eq_of_toNat_eq ?_, BitVec.eq_of_toNat_eq ?_⟩
  all_goals
    simp only [BitVec.extractLsb'_toNat, Nat.shiftRight_eq_div_pow, s.statusWord_toNat, BitVec.ofNat_eq_ofNat, BitVec.toNat_ofNat,
      Nat.zero_mod]
    omega

/-- Settles O9: `statusWord_fields`, with the flags as R41 gives them by the phase. -/
theorem statusLayout : Obligations.StatusLayout := by
  refine ⟨fun s => ?_, rfl, rfl, rfl, rfl, rfl, rfl, fun e => decide_eq_true_iff⟩
  obtain ⟨hb, hw, hm, hf, he, hh, hz⟩ := s.statusWord_fields
  rw [hb, hw, hm, hf]
  exact ⟨by simp [State.busy], by simp [State.hwaiting], rfl, by simp [State.fatalBit], he, hh, hz, by
    simp +contextual [State.hwaiting, State.busy]⟩

end Sys2Proof.Machine
end

section
/-!
PROOFS. No rule reads the operand latches between commands (10_state.md R42, R51; 93_implementation_defined.md row 8; O20).
-/

namespace Sys2Proof.Machine

/-- Two outcomes that tell nothing of the operand latches: next states equal but for them, and the very same after an acceptance. -/
def LatchBlind (x y : Host.Outcome State Fault Refusal) : Prop :=
  ∃ t u, x = .next t ∧ y = .next u ∧ t.SameButLatches u ∧ (t.phase = .exec → u = t)

/-- Both outcomes are one next state. -/
theorem LatchBlind.same (t : State) : LatchBlind (.next t) (.next t) := ⟨t, t, rfl, rfl, rfl, fun _ => rfl⟩

section
variable (s : State) (op : Opcode) (dst : Fin 8) (la lb lm : Value)

/-- Both outcomes keep the latches they had, and no command is accepted. -/
theorem LatchBlind.kept (h : s.phase ≠ .exec) : LatchBlind (.next s) (.next (s.withLatches op dst la lb lm)) :=
  ⟨s, _, rfl, rfl, rfl, fun hp => absurd hp h⟩

/-! ### The operations under other latches -/

/-- Fatal entry from a state that is not HALTED gives the latches new values. -/
theorem State.fatal_withLatches (code : ErrCode) (h : s.phase ≠ .halted) :
    (s.withLatches op dst la lb lm).fatal code = s.fatal code := by
  rw [State.fatal_of_not_halted s code h, State.fatal_of_not_halted (s.withLatches op dst la lb lm) code h]
  rfl

/-- Acceptance writes the latches and reads none. -/
theorem State.accept_withLatches (i : Instr) (h : s.phase = .idle) :
    (s.withLatches op dst la lb lm).accept i = s.accept i := by
  by_cases hi : i.WellFormed
  · rw [State.accept_of_wellFormed s i hi, State.accept_of_wellFormed _ i hi]
    rfl
  · rw [State.accept_of_illFormed s i hi, State.accept_of_illFormed _ i hi]
    exact (s.setCmd (encode i)).fatal_withLatches op dst la lb lm .illegalCommand (by simp [h])

theorem exec_withLatches (i : Instr) (h : s.phase = .idle) : exec i (s.withLatches op dst la lb lm) = exec i s := by
  rw [exec_idle i s h, exec_idle i (s.withLatches op dst la lb lm) h, State.accept_withLatches s op dst la lb lm i h]

variable (h : s.phase = .idle ∨ s.phase = .halted)
include h

theorem State.not_exec_of_between : s.phase ≠ .exec := by
  obtain h | h := h <;> simp [h]

theorem State.fatal_latchBlind (code : ErrCode) :
    LatchBlind (.next (s.fatal code)) (.next ((s.withLatches op dst la lb lm).fatal code)) := by
  obtain hp | hp := h
  · rw [s.fatal_withLatches op dst la lb lm code (by simp [hp])]
    exact .same _
  · rw [State.fatal_of_halted s code hp, State.fatal_of_halted (s.withLatches op dst la lb lm) code hp]
    exact .kept s op dst la lb lm (by simp [hp])

theorem State.writeCmd_latchBlind (w : Word) :
    LatchBlind (s.writeCmd w) ((s.withLatches op dst la lb lm).writeCmd w) := by
  obtain hp | hp := h
  · cases hd : decode w with
    | ok i =>
      rw [s.writeCmd_of_decode hd, State.writeCmd_of_decode _ hd, exec_withLatches s op dst la lb lm i hp, exec_idle i s hp]
      exact .same _
    | error e =>
      simp only [State.writeCmd, hd]
      rw [s.acceptIllegal_of_idle w hp, State.acceptIllegal_of_idle (s.withLatches op dst la lb lm) w hp]
      exact (s.setCmd w).fatal_latchBlind op dst la lb lm (.inl hp) _
  · rw [s.writeCmd_of_halted w hp, State.writeCmd_of_halted (s.withLatches op dst la lb lm) w hp]
    exact .kept s op dst la lb lm (by simp [hp])

/-- A transaction of the host reads no latch. -/
theorem State.performHost_latchBlind (x : HostTxn) :
    LatchBlind (s.performHost x) ((s.withLatches op dst la lb lm).performHost x) := by
  have hx := s.not_exec_of_between h
  have hread : ∀ d, LatchBlind (.next (s.respond x d)) (.next ((s.withLatches op dst la lb lm).respond x d)) := fun d =>
    .kept (s.respond x d) op dst la lb lm hx
  have herror : LatchBlind (.next ((s.respond x 0).fatal .address))
      (.next (((s.withLatches op dst la lb lm).respond x 0).fatal .address)) :=
    (s.respond x 0).fatal_latchBlind op dst la lb lm h _
  cases x with
  | readVal a =>
    show LatchBlind (.next (if s.valMapped a then _ else _)) (.next (if s.valMapped a then _ else _))
    split
    · exact hread _
    · exact herror
  | writeVal a d =>
    show LatchBlind (.next (if s.valMapped a then if s.phase = .halted then _ else _ else _))
      (.next (if s.valMapped a then if s.phase = .halted then _ else _ else _))
    split
    · split
      · exact .kept s op dst la lb lm hx
      · exact .kept (s.writeVal a d) op dst la lb lm hx
    · exact s.fatal_latchBlind op dst la lb lm h _
  | readCtrl a =>
    simp only [State.performHost, State.hostReadCtrl]
    split
    · exact hread _
    · split
      · exact hread _
      · split
        · exact hread _
        · exact herror
  | writeCtrl a d =>
    simp only [State.performHost, State.hostWriteCtrl]
    split
    · exact .kept s op dst la lb lm hx
    · split
      · exact .kept s op dst la lb lm hx
      · split
        · exact s.writeCmd_latchBlind op dst la lb lm h d
        · exact s.fatal_latchBlind op dst la lb lm h _

theorem State.issueHost_latchBlind (x : HostTxn) :
    LatchBlind (s.issueHost x) ((s.withLatches op dst la lb lm).issueHost x) := by
  show LatchBlind (if s.held = [] ∧ s.interlocked x = false then _ else _) (if s.held = [] ∧ s.interlocked x = false then _ else _)
  split
  · exact s.performHost_latchBlind op dst la lb lm h x
  · exact .kept (s.hold x) op dst la lb lm (s.not_exec_of_between h)

theorem State.releaseTurn_latchBlind : LatchBlind s.releaseTurn (s.withLatches op dst la lb lm).releaseTurn := by
  unfold State.releaseTurn
  rw [State.withLatches_held]
  split
  · exact .kept s op dst la lb lm (s.not_exec_of_between h)
  · next x xs _ =>
    rw [s.interlocked_of_not_busy x (State.not_busy h),
      State.interlocked_of_not_busy (s.withLatches op dst la lb lm) x (State.not_busy h)]
    exact (s.setHeld xs).performHost_latchBlind op dst la lb lm h x

theorem State.engineTurn_latchBlind : LatchBlind s.engineTurn (s.withLatches op dst la lb lm).engineTurn := by
  have hx := s.not_exec_of_between h
  rw [s.engineTurn_not_exec hx, State.engineTurn_not_exec (s.withLatches op dst la lb lm) hx]
  exact .kept s op dst la lb lm hx

theorem State.ownTurn_latchBlind : LatchBlind s.ownTurn (s.withLatches op dst la lb lm).ownTurn := by
  unfold State.ownTurn
  rw [State.withLatches_held]
  split
  · exact s.engineTurn_latchBlind op dst la lb lm h
  · next x xs _ =>
    rw [s.interlocked_of_not_busy x (State.not_busy h),
      State.interlocked_of_not_busy (s.withLatches op dst la lb lm) x (State.not_busy h)]
    exact s.releaseTurn_latchBlind op dst la lb lm h

theorem State.handleEvent_latchBlind (e : Event) :
    LatchBlind (s.handleEvent e) ((s.withLatches op dst la lb lm).handleEvent e) := by
  cases e with
  | host x => exact s.issueHost_latchBlind op dst la lb lm h x
  | release => exact s.releaseTurn_latchBlind op dst la lb lm h
  | engine => exact s.engineTurn_latchBlind op dst la lb lm h
  | hint p =>
    have hw : s.phase ≠ .hwait := by obtain h | h := h <;> simp [h]
    rw [State.handleEvent, State.handleEvent, s.hintResponse_discarded p hw,
      State.hintResponse_discarded (s.withLatches op dst la lb lm) p hw]
    exact .kept s op dst la lb lm (s.not_exec_of_between h)
  | reset => exact .same s.applyReset

theorem step_latchBlind : LatchBlind (step s) (step (s.withLatches op dst la lb lm)) := by
  cases he : s.events with
  | nil =>
    rw [step_no_event s he, step_no_event (s.withLatches op dst la lb lm) he]
    exact s.ownTurn_latchBlind op dst la lb lm h
  | cons e es =>
    rw [step_event s e es he, step_event (s.withLatches op dst la lb lm) e es he]
    exact (s.setEvents es).handleEvent_latchBlind op dst la lb lm h e

end

/-- Settles O20: every move is blind to the latches in phases IDLE and HALTED, and so is `exec` in phase IDLE. -/
theorem idleLatchesUnread : Obligations.IdleLatchesUnread :=
  ⟨fun s op dst la lb lm h => step_latchBlind s op dst la lb lm h,
    fun i s op dst la lb lm h => exec_withLatches s op dst la lb lm i h⟩

end Sys2Proof.Machine
end

section
/-!
PROOFS. One limb of a value written at the host port, and the accesses to `VAL` and `CTRL` (20_memory.md R61 to R68; O47 to O50).
-/

namespace Sys2Proof.Machine

/-! ### Limbs -/

section
variable (w : LimbWidth)

/-- A value is made of its own limbs (00_scope.md R14). -/
theorem ofLimbs_limbs (x : Value) : ofLimbs w (limbs w x) = x :=
  BitVec.eq_of_toNat_eq ((toNat_ofLimbs (limbs_length w x) (natLimbs_lt w x.toNat)).trans (valOf_limbs w x))

/-- A value is known by its W limbs. -/
theorem value_ext_limbs {x y : Value} (h : ∀ i, i < w.count → limbOf w x i = limbOf w y i) : x = y := by
  have hlimbs : limbs w x = limbs w y := List.map_congr_left fun i hi => h i (List.mem_range.mp hi)
  rw [← ofLimbs_limbs w x, hlimbs, ofLimbs_limbs]

theorem limbs_setLimb (x : Value) (i d : Nat) : limbs w (setLimb w x i d) = (limbs w x).set i (d % 2 ^ w.bits) := by
  refine limbs_ofLimbs (by simp) fun a ha => ?_
  obtain ha | rfl := List.mem_or_eq_of_mem_set ha
  · exact natLimbs_lt w x.toNat a ha
  · exact Nat.mod_lt _ (base_pos w)

/-- The limbs after one is written (20_memory.md R67). -/
theorem limbOf_setLimb (x : Value) (d : Nat) {i j : Nat} (hj : j < w.count) :
    limbOf w (setLimb w x i d) j = if i = j then d % 2 ^ w.bits else limbOf w x j := by
  rw [← limbs_getElem w _ j (by simpa using hj)]
  simp only [limbs_setLimb, List.getElem_set, limbs_getElem]

/-- A limb fits the 64 bits of a `VAL` datum (log entry 14). -/
theorem toNat_ofNat_limbOf (x : Value) (i : Nat) : (BitVec.ofNat 64 (limbOf w x i)).toNat = limbOf w x i := by
  have hle : 2 ^ w.bits ≤ 2 ^ 64 := by cases w <;> decide
  rw [BitVec.toNat_ofNat, Nat.mod_eq_of_lt ((limbOf_lt w x i).trans_le hle)]

end

/-! ### The `VAL` map -/

section
variable (s : State) {r i : Nat} (hi : i < s.width.count)
include hi

theorem State.valMapped_addr (hr : r < 8) : s.valMapped (r * s.width.count + i) = true := by
  have hle : (r + 1) * s.width.count ≤ 8 * s.width.count := Nat.mul_le_mul_right _ hr
  rw [Nat.succ_mul] at hle
  exact decide_eq_true (show _ < 8 * s.width.count by omega)

theorem State.valReg_addr (hr : r < 8) : s.valReg (r * s.width.count + i) = ⟨r, hr⟩ := by
  have hdiv : (r * s.width.count + i) / s.width.count = r := by
    rw [Nat.mul_comm, Nat.mul_add_div (count_pos s.width), Nat.div_eq_of_lt hi, Nat.add_zero]
  exact Fin.ext (by simp only [State.valReg, hdiv, Nat.mod_eq_of_lt hr])

theorem State.valLimb_addr : s.valLimb (r * s.width.count + i) = i := by
  rw [State.valLimb, Nat.mul_comm, Nat.mul_add_mod, Nat.mod_eq_of_lt hi]

/-- A read of limb `i` of register `r` (20_memory.md R65). -/
theorem State.performHost_readVal (hr : r < 8) : s.performHost (.readVal (r * s.width.count + i)) =
    .next (s.respond (.readVal (r * s.width.count + i)) (BitVec.ofNat 64 (limbOf s.width s.v[r] i))) := by
  rw [State.performHost, State.hostReadVal, if_pos (s.valMapped_addr hi hr), State.readVal, s.valReg_addr hi hr, s.valLimb_addr hi]
  rfl

/-- A write of limb `i` of register `r`, out of the fatal state (20_memory.md R67). -/
theorem State.performHost_writeVal (hr : r < 8) (d : BitVec 64) (hp : s.phase ≠ .halted) :
    s.performHost (.writeVal (r * s.width.count + i) d) = .next (s.setReg ⟨r, hr⟩ (setLimb s.width s.v[r] i d.toNat)) := by
  rw [State.performHost, State.hostWriteVal, if_pos (s.valMapped_addr hi hr), if_neg hp, State.writeVal, s.valReg_addr hi hr,
    s.valLimb_addr hi]
  rfl

/-- A write in the fatal state is ignored (60_exceptions.md R227). -/
theorem State.performHost_writeVal_halted (hr : r < 8) (d : BitVec 64) (hp : s.phase = .halted) :
    s.performHost (.writeVal (r * s.width.count + i) d) = .next s := by
  rw [State.performHost, State.hostWriteVal, if_pos (s.valMapped_addr hi hr), if_pos hp]

end

/-- Settles O47: the address splits into the register and the limb, and a limb fits the datum. -/
theorem valReadReturnsLimb : Obligations.ValReadReturnsLimb :=
  fun s _ i hr hi => ⟨s.performHost_readVal hi hr, toNat_ofNat_limbOf s.width _ i⟩

/-- Settles O48: the write is `setLimb` of the addressed register. -/
theorem valWriteSetsLimb : Obligations.ValWriteSetsLimb := by
  intro s r i d hr hi hd
  refine ⟨fun hp => ⟨_, s.performHost_writeVal hi hr d hp, ?_, fun j hj hne => ?_⟩, s.performHost_writeVal_halted hi hr d⟩
  · rw [limbOf_setLimb s.width _ _ hi, if_pos rfl, Nat.mod_eq_of_lt hd]
  · rw [limbOf_setLimb s.width _ _ hj, if_neg hne.symm]

/-! ### `CTRL` -/

/-- A read of a mapped `CTRL` address answers, and the answer is all it changes (20_memory.md R68). -/
theorem State.performHost_readCtrl (s : State) {a : Nat} (ha : a < 3) :
    ∃ d, s.performHost (.readCtrl a) = .next (s.respond (.readCtrl a) d) := by
  obtain rfl | rfl | rfl : a = 0 ∨ a = 1 ∨ a = 2 := by omega
  all_goals exact ⟨_, rfl⟩

/-- Settles O49: each address is a branch of the port's map. -/
theorem ctrlAccess : Obligations.CtrlAccess := fun _ _ => ⟨rfl, rfl, rfl, rfl, rfl, rfl⟩

/-! ### Address errors -/

/-- An access to an address outside the maps of 20_memory.md R62 and R63. -/
def State.Unmapped (s : State) (x : HostTxn) : Prop :=
  (∃ a, 8 * s.width.count ≤ a ∧ (x = .readVal a ∨ ∃ d, x = .writeVal a d)) ∨
    ∃ a, 3 ≤ a ∧ (x = .readCtrl a ∨ ∃ d, x = .writeCtrl a d)

/-- What an unmapped access does: fatal entry, after the answer 0 to a read (20_memory.md R64). -/
theorem State.performHost_unmapped {s : State} {x : HostTxn} (h : s.Unmapped x) :
    ((∃ a, x = .readVal a ∨ x = .readCtrl a) ∧ s.performHost x = .next ((s.respond x 0).fatal .address)) ∨
      ((∃ a d e, x = .writeVal a d ∨ x = .writeCtrl a e) ∧ s.performHost x = .next (s.fatal .address)) := by
  obtain ⟨a, ha, hx⟩ | ⟨a, ha, hx⟩ := h
  · have hm : ¬ s.valMapped a = true := fun h => Nat.not_lt.mpr ha (of_decide_eq_true h)
    obtain rfl | ⟨d, rfl⟩ := hx
    · exact .inl ⟨⟨a, .inl rfl⟩, by rw [State.performHost, State.hostReadVal, if_neg hm]⟩
    · exact .inr ⟨⟨a, d, 0, .inl rfl⟩, by rw [State.performHost, State.hostWriteVal, if_neg hm]⟩
  · have h0 : a ≠ 0 := by omega
    have h1 : a ≠ 1 := by omega
    have h2 : a ≠ 2 := by omega
    obtain rfl | ⟨d, rfl⟩ := hx
    · exact .inl ⟨⟨a, .inr rfl⟩, by rw [State.performHost, State.hostReadCtrl, if_neg h0, if_neg h1, if_neg h2]⟩
    · exact .inr ⟨⟨a, 0, d, .inr rfl⟩, by rw [State.performHost, State.hostWriteCtrl, if_neg h0, if_neg h1, if_neg h2]⟩

/-- Fatal entry with `ADDRESS`, from any phase: the first cause stays (20_memory.md R64; 60_exceptions.md R226). -/
theorem State.fatal_address (s : State) :
    (s.phase ≠ .halted →
        (s.fatal .address).err = .address ∧ (s.fatal .address).hreq = none ∧ (s.fatal .address).matched = false) ∧
      (s.phase = .halted → (s.fatal .address).err = s.err) :=
  ⟨fun hp => ⟨s.fatal_err _ hp, s.fatal_hreq _ hp, s.fatal_matched _ hp⟩, fun hp => by rw [s.fatal_of_halted _ hp]⟩

/-- Settles O50: `performHost_unmapped`, and what fatal entry keeps. -/
theorem unmappedAccessIsFatal : Obligations.UnmappedAccessIsFatal := by
  intro s x h
  obtain ⟨⟨b, hread⟩, hx⟩ | ⟨⟨b, c, f, hwrite⟩, hx⟩ := State.performHost_unmapped h
  · obtain ⟨hnew, hold⟩ := (s.respond x 0).fatal_address
    refine ⟨_, hx, by simp, by simp, by simp, by simp, hnew, hold, fun _ _ => by simp, ?_⟩
    obtain rfl | rfl := hread <;> simp
  · obtain ⟨hnew, hold⟩ := s.fatal_address
    refine ⟨_, hx, by simp, by simp, by simp, by simp, hnew, hold, ?_, fun _ _ _ _ => by simp⟩
    obtain rfl | rfl := hwrite <;> simp

end Sys2Proof.Machine
end

section
/-!
PROOFS. The interlock and the order of waiting accesses (20_memory.md R66, R70; O45, O46); a step always answers (R78; O13).
-/

namespace Sys2Proof.Machine

/-! ### The interlock -/

/-- While a command is in progress the interlock lets only reads of `CTRL` through (20_memory.md R66). -/
theorem State.interlocked_iff_of_busy {s : State} (hb : s.busy = true) (x : HostTxn) :
    s.interlocked x = true ↔ ∀ a, x ≠ .readCtrl a := by
  cases x <;> simp [State.interlocked, hb, HostTxn.isCtrlRead]

theorem State.interlocked_readCtrl (s : State) (a : Nat) : s.interlocked (.readCtrl a) = false := by
  simp [State.interlocked, HostTxn.isCtrlRead]

/-- A read of `CTRL` with none waiting before it takes effect at once, in every phase (20_memory.md R66). -/
theorem State.issueHost_readCtrl (s : State) (a : Nat) (hh : s.held = []) :
    s.issueHost (.readCtrl a) = s.performHost (.readCtrl a) := by
  rw [State.issueHost, if_pos ⟨hh, s.interlocked_readCtrl a⟩]

/-- Behind a waiting transaction a later one waits (20_memory.md R70). -/
theorem State.issueHost_of_waiting (s : State) (x : HostTxn) (hh : s.held ≠ []) : s.issueHost x = .next (s.hold x) := by
  rw [State.issueHost, if_neg fun h => hh h.1]

/-- The port's turn where the interlock lets the oldest waiting transaction through. -/
theorem State.releaseTurn_of_free {s : State} {x : HostTxn} {hs : List HostTxn} (hh : s.held = x :: hs)
    (hi : s.interlocked x = false) : s.releaseTurn = (s.setHeld hs).performHost x := by
  simp [State.releaseTurn, hh, hi]

/-- The port's turn where the interlock holds the oldest waiting transaction. -/
theorem State.releaseTurn_of_interlocked {s : State} {x : HostTxn} {hs : List HostTxn} (hh : s.held = x :: hs)
    (hi : s.interlocked x = true) : s.releaseTurn = .next s := by
  simp [State.releaseTurn, hh, hi]

/-- Settles O45: the step issues the transaction, and the interlock decides. -/
theorem busyHoldsHostAccess : Obligations.BusyHoldsHostAccess := by
  intro s x es hp he
  have hb : (s.setEvents es).busy = true := State.busy_iff.mpr hp
  rw [step_event s _ es he, State.handleEvent]
  refine ⟨fun hx => ?_, fun a ha hh => ?_⟩
  · exact State.issueHost_of_interlocked _ x ((State.interlocked_iff_of_busy hb x).mpr hx)
  · rw [ha, (s.setEvents es).issueHost_readCtrl a hh]

/-- Settles O46: the step issues a transaction, or is the port's turn. -/
theorem waitingAccessesKeepOrder : Obligations.WaitingAccessesKeepOrder := by
  refine ⟨fun s x y hs es hh he => ?_, fun s x hs es hh he hb => ?_, fun s x hs es hh he hb hx => ?_⟩
  · refine ⟨_, ?_, rfl, by simp [hh]⟩
    rw [step_event s _ es he, State.handleEvent, State.issueHost_of_waiting _ y (by simp [hh])]
  · rw [step_event s _ es he, State.handleEvent]
    exact State.releaseTurn_of_free (s := s.setEvents es) hh ((s.setEvents es).interlocked_of_not_busy x hb)
  · rw [step_event s _ es he, State.handleEvent]
    have hi : (s.setEvents es).interlocked x = true := (State.interlocked_iff_of_busy (s := s.setEvents es) hb x).mpr hx
    exact State.releaseTurn_of_interlocked (s := s.setEvents es) hh hi

/-! ### A step always answers -/

/-- `exec` answers, unless it is the engine's step with another opcode latched (log entry 12). -/
theorem exec_answers (i : Instr) (s : State) (h : s.phase = .exec → s.op = i.opcode) : ∃ t, exec i s = .next t := by
  rw [exec_eq_runCommand]
  cases hp : s.phase with
  | idle => exact ⟨_, s.runCommand_idle i _ hp⟩
  | exec =>
    by_cases hc : s.cmd = encode i
    · exact ⟨_, s.runCommand_exec i _ hp hc (h hp)⟩
    · exact ⟨s, by simp [State.runCommand, hp, hc]⟩
  | hwait => exact ⟨s, s.runCommand_hwait i _ hp⟩
  | halted => exact ⟨s, s.runCommand_halted i _ hp⟩

section
variable (s : State)

theorem State.writeCmd_answers (w : Word) (hx : s.phase ≠ .exec) : ∃ t, s.writeCmd w = .next t := by
  unfold State.writeCmd
  split
  · exact exec_answers _ s fun hp => absurd hp hx
  · exact ⟨_, rfl⟩

/-- A host access that the interlock lets through answers. -/
theorem State.performHost_answers {x : HostTxn} (hi : s.interlocked x = false) : ∃ t, s.performHost x = .next t := by
  cases x with
  | readVal a => exact ⟨_, rfl⟩
  | writeVal a d => exact ⟨_, rfl⟩
  | readCtrl a => exact ⟨_, rfl⟩
  | writeCtrl a d =>
    have hb : s.busy = false := State.not_busy_of_not_interlocked hi rfl
    have hx : s.phase ≠ .exec := fun hp => by cases (State.busy_of_exec hp).symm.trans hb
    simp only [State.performHost, State.hostWriteCtrl]
    split_ifs
    · exact ⟨s, rfl⟩
    · exact ⟨s, rfl⟩
    · exact s.writeCmd_answers d hx
    · exact ⟨_, rfl⟩

theorem State.issueHost_answers (x : HostTxn) : ∃ t, s.issueHost x = .next t := by
  unfold State.issueHost
  split
  · next h => exact s.performHost_answers h.2
  · exact ⟨_, rfl⟩

theorem State.releaseTurn_answers : ∃ t, s.releaseTurn = .next t := by
  unfold State.releaseTurn
  split
  · exact ⟨s, rfl⟩
  · next x hs _ =>
    split
    · exact ⟨s, rfl⟩
    · next hi => exact (s.setHeld hs).performHost_answers (Bool.eq_false_of_not_eq_true hi)

end

section
variable {s : State} (h : s.Inv)
include h

/-- The engine's turn finds the command in progress in `CMD` and its opcode latched. -/
theorem State.Inv.engineTurn_answers : ∃ t, s.engineTurn = .next t := by
  by_cases hp : s.phase = .exec
  · obtain ⟨i, hd, ho, -⟩ := h.running (State.busy_of_exec hp)
    rw [s.engineTurn_exec i hp hd]
    exact exec_answers i s fun _ => ho
  · exact ⟨s, s.engineTurn_not_exec hp⟩

theorem State.Inv.handleEvent_answers (e : Event) : ∃ t, s.handleEvent e = .next t := by
  cases e with
  | host x => exact s.issueHost_answers x
  | release => exact s.releaseTurn_answers
  | engine => exact h.engineTurn_answers
  | hint p => exact ⟨_, rfl⟩
  | reset => exact ⟨_, rfl⟩

theorem State.Inv.step_answers : ∃ t, step s = .next t := by
  cases he : s.events with
  | nil =>
    rw [step_no_event s he]
    obtain ht | ht := s.ownTurn_cases
    · exact ht ▸ h.engineTurn_answers
    · exact ht ▸ s.releaseTurn_answers
  | cons e es =>
    rw [step_event s e es he]
    exact (h.withPort s.held es s.reads).handleEvent_answers e

end

/-- Settles O13: of the agents only the engine can fault, and the invariant rules its faults out. -/
theorem stepAlwaysAnswers : Obligations.StepAlwaysAnswers := fun _ h => h.step_answers

end Sys2Proof.Machine
end

section
/-!
PROOFS. The hint exchange as the engine and the port see it (20_memory.md R75, R77, R80, R81; O19, O30, O35, O51, O52).
-/

namespace Sys2Proof.Machine

/-! ### The engine's side -/

/-- Settles O19: outside phase EXEC there is nothing to do, and in EXEC the command is not the one in `CMD`. -/
theorem otherCommandWaits : Obligations.OtherCommandWaits := by
  intro i s
  rw [exec_eq_runCommand]
  exact ⟨s.runCommand_hwait i _, s.runCommand_halted i _, fun hp hc => by simp [State.runCommand, hp, hc]⟩

/-- Settles O30: the engine's step of `MULMOD` with no response and a modulus that is not 0 is `request`. -/
theorem mulmodRequestsHint : Obligations.MulmodRequestsHint := by
  intro rd ra rb rm s hp hc ho hr hm
  have hwork : engineWork (.mulmod rd ra rb rm) s = s.request 1 s.la s.lb s.lm :=
    (s.mulmodStep_issue hr).trans (s.modmulIssue_nonzero 1 _ _ hm)
  exact ⟨_, (exec_running _ s hp hc ho).trans (congrArg _ hwork), rfl, rfl, rfl, rfl, rfl, rfl, rfl⟩

/-- The engine's step of `RSAV` that makes a request (45_rsa.md R201). -/
theorem State.rsavStep_request {s : State} (hr : s.hresp = none) (hk : s.round < 17) (hm : s.lm ≠ 0) :
    s.rsavStep = (s.setAcc s.roundAcc).request (s.round + 1) s.roundAcc ((s.setAcc s.roundAcc).rsaOperand (s.round + 1)) s.lm := by
  rw [s.rsavStep_issue hr hk, s.rsaIssue_eq]
  exact State.modmulIssue_nonzero (s.setAcc s.roundAcc) _ _ _ hm

/-- Settles O35: the second operand of the next round is the signature exactly in round 17. -/
theorem rsavRequestsHint : Obligations.RsavRequestsHint := by
  intro rd ra rb rm s hp hc ho hr hm hk
  have hlast : s.round + 1 = Config.rounds ↔ s.round = 16 := Nat.succ_inj
  refine ⟨_, (exec_running _ s hp hc ho).trans (congrArg _ (State.rsavStep_request hr hk hm)), rfl, rfl, rfl, ?_, rfl, rfl⟩
  simp [State.rsaOperand, hlast]

/-! ### The port's side -/

/-- Settles O51: the response is received in phase HWAIT and else discarded. -/
theorem hintResponseTakenOrDiscarded : Obligations.HintResponseTakenOrDiscarded := by
  intro s p es he
  rw [step_event s _ es he, State.handleEvent]
  refine ⟨fun hp => ⟨_, congrArg _ ((s.setEvents es).hintResponse_hwait p hp), rfl, rfl, rfl, rfl, rfl, rfl, rfl, rfl⟩,
    fun hp => congrArg _ ((s.setEvents es).hintResponse_discarded p hp)⟩

/-! ### An unanswered request -/

/-- A hang with no read of an unmapped `CTRL` address among the host's transactions, which would end it (20_memory.md R64, R80). -/
def State.HungMapped (s : State) : Prop :=
  s.Hung ∧ (∀ a, Event.host (.readCtrl a) ∈ s.events → a < 3) ∧ ∀ a, HostTxn.readCtrl a ∈ s.held → a < 3

/-- The outcome changes the waiting transactions and the answered reads alone, and no read of an unmapped `CTRL` address waits. -/
def State.OnlyPort (s : State) (o : Host.Outcome State Fault Refusal) : Prop :=
  ∃ hs rs, o = .next (s.withPort hs s.events rs) ∧ ∀ a, HostTxn.readCtrl a ∈ hs → a < 3

section
variable {s : State} (hp : s.phase = .hwait) (hm : ∀ a, HostTxn.readCtrl a ∈ s.held → a < 3)
include hm

theorem State.OnlyPort.same : s.OnlyPort (.next s) := ⟨s.held, s.reads, rfl, hm⟩

/-- The answer to a read of a mapped `CTRL` address, with `hs` left waiting, changes the port alone. -/
theorem State.onlyPort_readCtrl {hs : List HostTxn} (hsub : hs ⊆ s.held) {a : Nat} (ha : a < 3) :
    s.OnlyPort ((s.setHeld hs).performHost (.readCtrl a)) := by
  obtain ⟨d, hd⟩ := (s.setHeld hs).performHost_readCtrl ha
  exact ⟨hs, _, hd, fun b hb => hm b (hsub hb)⟩

include hp

theorem State.issueHost_onlyPort (x : HostTxn) (hx : ∀ a, x = .readCtrl a → a < 3) : s.OnlyPort (s.issueHost x) := by
  by_cases hw : ∃ a, x = .readCtrl a ∧ s.held = []
  · obtain ⟨a, rfl, hh⟩ := hw
    rw [s.issueHost_readCtrl a hh]
    exact State.onlyPort_readCtrl hm (List.Subset.refl _) (hx a rfl)
  · have hhold : s.issueHost x = .next (s.hold x) := by
      by_cases hh : s.held = []
      · exact s.issueHost_of_interlocked x
          ((State.interlocked_iff_of_busy (State.busy_of_hwait hp) x).mpr fun a ha => hw ⟨a, ha, hh⟩)
      · exact s.issueHost_of_waiting x hh
    refine ⟨_, _, hhold, fun a ha => ?_⟩
    obtain ha | ha := List.mem_append.mp ha
    · exact hm a ha
    · exact hx a (List.mem_singleton.mp ha).symm

theorem State.releaseTurn_onlyPort : s.OnlyPort s.releaseTurn := by
  cases hh : s.held with
  | nil =>
    have hidle : s.releaseTurn = .next s := by simp [State.releaseTurn, hh]
    exact hidle ▸ .same hm
  | cons x hs =>
    cases hi : s.interlocked x with
    | true => exact State.releaseTurn_of_interlocked hh hi ▸ .same hm
    | false =>
      have hx : ∃ a, x = .readCtrl a := by
        by_contra hne
        cases hi.symm.trans ((State.interlocked_iff_of_busy (State.busy_of_hwait hp) x).mpr fun a ha => hne ⟨a, ha⟩)
      obtain ⟨a, rfl⟩ := hx
      rw [State.releaseTurn_of_free hh hi]
      exact State.onlyPort_readCtrl hm (by simp [hh]) (hm a (by simp [hh]))

theorem State.engineTurn_onlyPort : s.OnlyPort s.engineTurn :=
  s.engineTurn_not_exec (by simp [hp]) ▸ .same hm

theorem State.ownTurn_onlyPort : s.OnlyPort s.ownTurn := by
  obtain ht | ht := s.ownTurn_cases
  · exact ht ▸ State.engineTurn_onlyPort hp hm
  · exact ht ▸ State.releaseTurn_onlyPort hp hm

/-- A move that is neither a response nor a reset leaves the outstanding request as it is (20_memory.md R77, R80). -/
theorem State.handleEvent_onlyPort {e : Event} (hhint : ∀ p, e ≠ .hint p) (hreset : e ≠ .reset)
    (hx : ∀ a, e = .host (.readCtrl a) → a < 3) : s.OnlyPort (s.handleEvent e) := by
  cases e with
  | host x => exact State.issueHost_onlyPort hp hm x fun a ha => hx a (ha ▸ rfl)
  | release => exact State.releaseTurn_onlyPort hp hm
  | engine => exact State.engineTurn_onlyPort hp hm
  | hint p => exact absurd rfl (hhint p)
  | reset => exact absurd rfl hreset

end

/-- A step of a hanging engine changes the port alone, and the engine still hangs. -/
theorem State.HungMapped.step {s : State} (h : s.HungMapped) :
    ∃ hs es rs, step s = .next (s.withPort hs es rs) ∧ (s.withPort hs es rs).HungMapped := by
  obtain ⟨⟨hp, hhint, hreset⟩, hev, hheld⟩ := h
  cases he : s.events with
  | nil =>
    obtain ⟨hs, rs, ho, hm⟩ := State.ownTurn_onlyPort hp hheld
    exact ⟨hs, s.events, rs, (step_no_event s he).trans ho, ⟨hp, hhint, hreset⟩, hev, hm⟩
  | cons e es =>
    rw [he] at hhint hreset hev
    obtain ⟨hs, rs, ho, hm⟩ := State.handleEvent_onlyPort (s := s.setEvents es) (e := e) hp hheld
      (fun p hpe => hhint p (by simp [hpe])) (fun hre => hreset (by simp [hre])) fun a ha => hev a (by simp [ha])
    exact ⟨hs, es, rs, (step_event s e es he).trans ho,
      ⟨hp, fun p hmem => hhint p (List.mem_cons_of_mem e hmem), fun hmem => hreset (List.mem_cons_of_mem e hmem)⟩,
      fun a hmem => hev a (List.mem_cons_of_mem e hmem), hm⟩

/-- A step that answers is the first of a run. -/
theorem run_succ_of_step {s t : State} (n : Nat) (h : step s = .next t) : core.run (n + 1) s = core.run n t := by
  have hcore : core.step s = .next t := h
  simp only [Host.Core.run, hcore]

/-- However long it runs, a hanging engine changes the port alone. -/
theorem State.HungMapped.run (n : Nat) : ∀ {s : State}, s.HungMapped →
    ∃ hs es rs, core.run n s = .next (s.withPort hs es rs) := by
  induction n with
  | zero => exact fun {s} _ => ⟨s.held, s.events, s.reads, rfl⟩
  | succ n ih =>
    intro s h
    obtain ⟨hs, es, rs, hstep, ht⟩ := h.step
    obtain ⟨hs', es', rs', hrun⟩ := ih ht
    exact ⟨hs', es', rs', (run_succ_of_step n hstep).trans hrun⟩

/-- Settles O52: no step of a hanging engine changes more than the port. -/
theorem unansweredRequestHangs : Obligations.UnansweredRequestHangs := by
  intro n s hh hev hheld
  obtain ⟨hs, es, rs, hrun⟩ := State.HungMapped.run n ⟨hh, hev, hheld⟩
  exact ⟨_, hrun, hh.1, rfl, rfl, rfl, rfl, rfl, rfl⟩

end Sys2Proof.Machine
end

section
/-!
PROOFS. The host's pseudo-instructions `ldv`, `stv` and `wait` (30_encoding.md R101; O59).
-/

namespace Sys2Proof.Machine

/-- A host access with none waiting and no command in progress takes effect in the step that takes it up (20_memory.md R66). -/
theorem step_host_of_free {s : State} {x : HostTxn} {es : List Event} (he : s.events = .host x :: es) (hh : s.held = [])
    (hb : s.busy = false) : step s = (s.setEvents es).performHost x := by
  rw [step_event s _ es he, State.handleEvent]
  exact State.issueHost_of_free (s.setEvents es) x hh hb

/-! ### `ldv` -/

/-- The value after the limbs of `x` at the given places are written over those of `y`, one by one. -/
def copyLimbs (w : LimbWidth) (x : Value) (is : List Nat) (y : Value) : Value :=
  is.foldl (fun z i => setLimb w z i (limbOf w x i)) y

theorem limbOf_copyLimbs (w : LimbWidth) (x : Value) (is : List Nat) {j : Nat} (hj : j < w.count) :
    ∀ y, limbOf w (copyLimbs w x is y) j = if j ∈ is then limbOf w x j else limbOf w y j := by
  induction is with
  | nil => exact fun y => by simp [copyLimbs]
  | cons i is ih =>
    intro y
    have hset := limbOf_setLimb w y (limbOf w x i) (i := i) hj
    rw [Nat.mod_eq_of_lt (limbOf_lt w x i)] at hset
    rw [copyLimbs, List.foldl_cons, ← copyLimbs, ih, hset]
    by_cases hm : j ∈ is
    · simp [hm]
    · by_cases hij : i = j
      · simp [hij]
      · simp [hm, hij, Ne.symm hij]

/-- Writing all W limbs of `x` gives `x`. -/
theorem copyLimbs_range (w : LimbWidth) (x y : Value) : copyLimbs w x (List.range w.count) y = x :=
  value_ext_limbs w fun j hj => by rw [limbOf_copyLimbs w x _ hj, if_pos (List.mem_range.mpr hj)]

/-- One write of `ldv`. -/
theorem step_ldv {s : State} {r : RegField} {x : Value} {i : Nat} {es : List Event}
    (he : s.events = .host (.writeVal (valAddr s.width r i) (BitVec.ofNat 64 (limbOf s.width x i))) :: es) (hp : s.phase = .idle)
    (hh : s.held = []) (hr : r.toNat < 8) (hi : i < s.width.count) :
    step s = .next ((s.setEvents es).setReg ⟨r.toNat, hr⟩ (setLimb s.width s.v[r.toNat] i (limbOf s.width x i))) := by
  have hwrite := (s.setEvents es).performHost_writeVal hi hr (BitVec.ofNat 64 (limbOf s.width x i)) (by simp [hp])
  rw [toNat_ofNat_limbOf] at hwrite
  exact (step_host_of_free he hh (State.not_busy (.inl hp))).trans hwrite

/-- The writes of the limbs `is` of `x`, one step each. -/
theorem run_ldv (w : LimbWidth) (r : RegField) (hr : r.toNat < 8) (x : Value) (es : List Event) (is : List Nat) :
    ∀ s : State, s.width = w → s.phase = .idle → s.held = [] → (∀ i ∈ is, i < w.count) →
      s.events = (is.map fun i => .host (.writeVal (valAddr w r i) (BitVec.ofNat 64 (limbOf w x i)))) ++ es →
      core.run is.length s = .next { s with v := s.v.set r.toNat (copyLimbs w x is s.v[r.toNat]), events := es } := by
  induction is with
  | nil =>
    rintro s rfl - - - rfl
    rw [copyLimbs, List.foldl_nil, Vector.set_getElem_self]
    rfl
  | cons i is ih =>
    rintro s rfl hp hh hlt he
    have hrun := run_succ_of_step is.length (step_ldv he hp hh hr (hlt i (by simp)))
    refine (hrun.trans (ih _ rfl hp hh (fun j hj => hlt j (by simp [hj])) rfl)).trans (congrArg _ ?_)
    simp only [State.setReg, State.setEvents, Vector.set_set, Vector.getElem_set_self, copyLimbs, List.foldl_cons]

/-! ### `stv` -/

/-- One read of `stv`. -/
theorem step_stv {s : State} {r : RegField} {i : Nat} {es : List Event}
    (he : s.events = .host (.readVal (valAddr s.width r i)) :: es) (hb : s.busy = false) (hh : s.held = []) (hr : r.toNat < 8)
    (hi : i < s.width.count) : step s = .next ((s.setEvents es).respond (.readVal (valAddr s.width r i))
      (BitVec.ofNat 64 (limbOf s.width s.v[r.toNat] i))) :=
  (step_host_of_free he hh hb).trans ((s.setEvents es).performHost_readVal hi hr)

/-- The reads of the limbs `is` of a register, one step each. -/
theorem run_stv (r : RegField) (hr : r.toNat < 8) (es : List Event) (is : List Nat) :
    ∀ s : State, s.busy = false → s.held = [] → (∀ i ∈ is, i < s.width.count) →
      s.events = (is.map fun i => .host (.readVal (valAddr s.width r i))) ++ es →
      core.run is.length s = .next { s with events := es, reads := s.reads ++ is.map fun i =>
        ⟨.readVal (valAddr s.width r i), BitVec.ofNat 64 (limbOf s.width s.v[r.toNat] i)⟩ } := by
  induction is with
  | nil =>
    rintro s - - - rfl
    rw [List.map_nil, List.append_nil]
    rfl
  | cons i is ih =>
    intro s hb hh hlt he
    have hrun := run_succ_of_step is.length (step_stv he hb hh hr (hlt i (by simp)))
    refine (hrun.trans (ih _ hb hh (fun j hj => hlt j (by simp [hj])) rfl)).trans (congrArg _ ?_)
    simp [State.respond, State.setEvents]

/-- The W answers to the reads of a value's limbs form the value. -/
theorem stvValue_limbs (w : LimbWidth) (x : Value) (t : Nat → HostTxn) :
    stvValue w ((List.range w.count).map fun i => ⟨t i, BitVec.ofNat 64 (limbOf w x i)⟩) = x := by
  have hdata : ∀ i, (BitVec.ofNat 64 (limbOf w x i)).toNat % 2 ^ w.bits = limbOf w x i := fun i => by
    rw [toNat_ofNat_limbOf, Nat.mod_eq_of_lt (limbOf_lt w x i)]
  rw [stvValue, List.map_map]
  simp only [Function.comp_def, hdata]
  exact ofLimbs_limbs w x

/-! ### `wait` -/

/-- The answer to `wait`'s read in state `s`. -/
def State.polled (s : State) : State := s.respond (.readCtrl 1) (s.statusWord.setWidth 64)

/-- The later rounds of `wait`, after the machine's other moves have given `o`. -/
def waitAfter (ks : List Nat) (o : Host.Outcome State Fault Refusal) : Host.Outcome (Bool × State) Fault Refusal :=
  match o with
  | .next u => hostWait ks u
  | .fault r => .fault r
  | .refused r => .refused r

theorem waitAfter_ended {ks : List Nat} {o : Host.Outcome State Fault Refusal} {t : State}
    (h : waitAfter ks o = .next (true, t)) : ∃ u, hostWait ks u = .next (true, t) := by
  cases o with
  | next u => exact ⟨u, h⟩
  | fault r => cases h
  | refused r => cases h

/-- A round of `wait` that reads `BUSY = 0` is its last. -/
theorem hostWait_of_not_busy (k : Nat) (ks : List Nat) {s : State} (hh : s.held = []) (hb : s.busy = false) :
    hostWait (k :: ks) s = .next (true, s.polled) := by
  simp only [hostWait, if_pos hh, s.pollStatus_eq hh, s.sawIdle_respond, s.pollDone_statusWord, hb]
  rfl

/-- A round of `wait` that reads `BUSY = 1` lets the machine go on. -/
theorem hostWait_of_busy (k : Nat) (ks : List Nat) {s : State} (hh : s.held = []) (hb : s.busy = true) :
    hostWait (k :: ks) s = waitAfter ks (core.run k s.polled) := by
  simp only [hostWait, if_pos hh, s.pollStatus_eq hh, s.sawIdle_respond, s.pollDone_statusWord, hb]
  rfl

/-- A round of `wait` behind a waiting transaction reads nothing (20_memory.md R70). -/
theorem hostWait_of_waiting (k : Nat) (ks : List Nat) {s : State} (hh : s.held ≠ []) :
    hostWait (k :: ks) s = waitAfter ks (core.run k s) := by
  rw [hostWait, if_neg hh]
  rfl

/-- A `wait` that ends does so in its first round, at a read of `BUSY = 0`, or in a later one. -/
theorem hostWait_ended {k : Nat} {ks : List Nat} {s t : State} (h : hostWait (k :: ks) s = .next (true, t)) :
    (s.held = [] ∧ s.busy = false ∧ t = s.polled) ∨ ∃ u, hostWait ks u = .next (true, t) := by
  by_cases hh : s.held = []
  · cases hb : s.busy with
    | false =>
      cases (hostWait_of_not_busy k ks hh hb).symm.trans h
      exact .inl ⟨hh, rfl, rfl⟩
    | true => exact .inr (waitAfter_ended ((hostWait_of_busy k ks hh hb).symm.trans h))
  · exact .inr (waitAfter_ended ((hostWait_of_waiting k ks hh).symm.trans h))

/-- `wait` ends only after a read that shows `BUSY = 0`. -/
theorem hostWait_done (ks : List Nat) : ∀ {s t : State}, hostWait ks s = .next (true, t) →
    t.busy = false ∧ t.held = [] ∧ ∃ rs, t.reads = rs ++ [⟨.readCtrl 1, t.statusWord.setWidth 64⟩] := by
  induction ks with
  | nil => exact fun h => by cases h
  | cons k ks ih =>
    intro s t h
    obtain ⟨hh, hb, rfl⟩ | ⟨u, hu⟩ := hostWait_ended h
    · exact ⟨hb, hh, s.reads, rfl⟩
    · exact ih hu

/-- Settles O59: `ldv` copies all limbs, `stv` reads them all, and a round of `wait` is known by what its read shows. -/
theorem pseudoInstructions : Obligations.PseudoInstructions := by
  refine ⟨fun s r x es hr hp hh he => ?_, fun s r es hr hp hh he => ?_, fun ks s t => hostWait_done ks,
    fun k ks s => hostWait_of_not_busy k ks, fun k ks s u hh hb hu => ?_⟩
  · have hrun := run_ldv s.width r hr x es (List.range s.width.count) s rfl hp hh (fun i => List.mem_range.mp) he
    rwa [List.length_range, copyLimbs_range] at hrun
  · have hrun := run_stv r hr es (List.range s.width.count) s (State.not_busy hp) hh (fun i => List.mem_range.mp) he
    rw [List.length_range] at hrun
    exact ⟨_, hrun, by simp, stvValue_limbs s.width _ _⟩
  · exact (hostWait_of_busy k ks hh hb).trans (congrArg (waitAfter ks) hu)

end Sys2Proof.Machine
end

section
/-!
PROOFS. The encoding: round trips, the mask rows, illegal words and the worked examples (30_encoding.md R90 to R103; O1 to O5,
O18, O60).
-/

namespace Sys2Proof

/-! ### The mask rows -/

theorem legal_iff_row (w : Word) : legal w = true ↔ ∃ r ∈ opcodeRows, w &&& r.mask = r.matchBits := by
  simp only [legal, List.any_eq_true, OpcodeRow.hits, beq_iff_eq]

/-- A row matches only words with its own opcode. -/
theorem OpcodeRow.opcField_of_hits {r : OpcodeRow} {w : Word} (hr : r ∈ opcodeRows) (h : r.hits w = true) :
    opcField w = r.opcode.code := by
  rw [opcodeRows_eq_fields] at hr
  simp only [List.mem_cons, List.not_mem_nil, or_false] at hr
  obtain rfl | rfl | rfl | rfl | rfl := hr <;> exact ((OpcodeRow.hits_packFields_iff _ _ _ _ _ _).mp h).1

theorem Opcode.code_injective {o₁ o₂ : Opcode} (h : o₁.code = o₂.code) : o₁ = o₂ :=
  Option.some.inj (by rw [← opcodeOf_code o₁, h, opcodeOf_code])

/-- Each opcode has one row (30_encoding.md R96). -/
theorem opcodeRow_eq_of_opcode : ∀ r₁ ∈ opcodeRows, ∀ r₂ ∈ opcodeRows, r₁.opcode = r₂.opcode → r₁ = r₂ := by decide

/-! ### Illegal words -/

theorem regFieldOk_iff {r : RegField} : regFieldOk r = true ↔ r.toNat < 8 := decide_eq_true_iff

/-- The legal words, field by field (30_encoding.md R92, R94, R95, R97): the rows of R96, with those of the opcodes that use the same
fields joined. -/
theorem legal_iff_fields (w : Word) : legal w = true ↔ rsvdField w = 0 ∧ (rdField w).toNat < 8 ∧
    ((opcField w = 1 ∧ raField w = 0 ∧ rbField w = 0 ∧ rmField w = 0) ∨
      ((opcField w = 2 ∨ opcField w = 3) ∧ (raField w).toNat < 8 ∧ (rbField w).toNat < 8 ∧ rmField w = 0) ∨
      ((opcField w = 4 ∨ opcField w = 5) ∧ (raField w).toNat < 8 ∧ (rbField w).toNat < 8 ∧ (rmField w).toNat < 8)) := by
  have hnibble : ∀ x : RegField, x &&& 15 = x := fun x => BitVec.and_allOnes
  simp only [legal, opcodeRows_eq_fields, List.any_cons, List.any_nil, Bool.or_eq_true, OpcodeRow.hits_packFields_iff, hnibble,
    regField_and_eight, regFieldOk_iff]
  grind

theorem decode_error_iff_not_legal (w : Word) : (∃ e, decode w = .error e) ↔ ¬ legal w = true := by
  rw [legal_iff_decodes]
  cases decode w <;> simp

/-- A command's word meets the decoder's conditions on opcode, unused and reserved fields; its registers are checked as they are. -/
theorem decode_encode_eq_checkFields (i : Instr) : decode (encode i) = checkFields true i := by
  cases i <;> simp [decode, encode, Instr.opcode, Instr.rd, Instr.ra, Instr.rb, Instr.rm, fieldBits]

theorem encode_not_legal {i : Instr} (h : ¬ i.WellFormed) : legal (encode i) = false := by
  rw [Bool.eq_false_iff, ne_eq, legal_iff_decodes, decode_encode_eq_checkFields]
  rintro ⟨j, hj⟩
  exact h (checkFields_eq_ok_iff.mp hj).1

end Sys2Proof

namespace Sys2Proof.Machine

/-! ### Round trips -/

/-- Settles O1: the decoder reads the packed fields back (`decode_encode`). -/
theorem decodeOfEncode : Obligations.DecodeOfEncode := fun _ => decode_encode

/-- Settles O2: the six fields of a word are the word, and the decoder keeps each of them (`decode_eq_ok_iff`). -/
theorem encodeOfDecode : Obligations.EncodeOfDecode := fun _ _ => decode_eq_ok_iff.mp

/-! ### The mask rows -/

/-- Settles O3: two rows that match one word both have its opcode. -/
theorem legalExactlyWhenDecodes : Obligations.LegalExactlyWhenDecodes :=
  ⟨legal_iff_decodes, fun _ r₁ h₁ r₂ h₂ hit₁ hit₂ => opcodeRow_eq_of_opcode r₁ h₁ r₂ h₂
    (Opcode.code_injective ((OpcodeRow.opcField_of_hits h₁ hit₁).symm.trans (OpcodeRow.opcField_of_hits h₂ hit₂)))⟩

/-! ### Illegal words -/

/-- Settles O4: the conditions are what `legal_iff_fields` leaves out. -/
theorem illegalWordConditions : Obligations.IllegalWordConditions := by
  refine ⟨fun w => ?_, .unknownOpcode, by decide⟩
  rw [decode_error_iff_not_legal, legal_iff_fields]
  simp only [ne_eq, ← BitVec.toNat_inj, BitVec.ofNat_eq_ofNat, BitVec.toNat_ofNat]
  omega

/-! ### Worked encodings -/

/-- A line that assembles to a well-formed command decodes to it. -/
theorem assembleWord_decode {line : List Char} {i : Instr} {w : Word} (ha : assembleCommand line = some i) (hi : i.WellFormed)
    (hw : encode i = w) : assembleWord line = some w ∧ decode w = .ok i :=
  ⟨by rw [assembleWord, ha, ← hw]; rfl, decode_eq_ok_iff.mpr ⟨hi, hw⟩⟩

/-- Settles O5: each line is parsed to its command, whose word is packed. -/
theorem workedEncodings : Obligations.WorkedEncodings := by
  refine ⟨assembleWord_decode ?_ ?_ ?_, assembleWord_decode ?_ ?_ ?_, assembleWord_decode ?_ ?_ ?_,
    assembleWord_decode ?_ ?_ ?_, assembleWord_decode ?_ ?_ ?_, assembleWord_decode ?_ ?_ ?_, ?_⟩
  all_goals decide

/-! ### The effect of an illegal word -/

/-- Settles O18: the write takes effect in the step, as fatal entry on the state with the word in `CMD`. -/
theorem illegalWordIsFatal : Obligations.IllegalWordIsFatal := by
  refine ⟨legal_iff_row, fun s w es hp hh he hl => ?_⟩
  have hx : ((s.setEvents es).setCmd w).phase ≠ .halted := by simp [hp]
  refine ⟨((s.setEvents es).setCmd w).fatal .illegalCommand, ?_, by simp, by simp, State.fatal_err _ _ hx, by simp,
    State.fatal_hreq _ _ hx, by simp, State.fatal_matched _ _ hx⟩
  calc step s = (s.setEvents es).writeCmd w := step_host_of_free he hh (State.not_busy (.inl hp))
    _ = .next ((s.setEvents es).acceptIllegal w) := State.writeCmd_of_not_legal _ hl
    _ = _ := by rw [State.acceptIllegal_of_idle _ _ (by simpa using hp)]

/-- Settles O60: acceptance of ill-formed syntax is fatal entry on the state with its word in `CMD`. -/
theorem illFormedCommandIsFatal : Obligations.IllFormedCommandIsFatal := by
  intro i s hi hp
  refine ⟨encode_not_legal hi, _, exec_idle i s hp, ?_⟩
  rw [State.accept_of_illFormed s i hi]
  exact ⟨by simp, by simp, State.fatal_err _ _ (by simp [hp]), by simp, by simp⟩

end Sys2Proof.Machine
end

section
/-!
PROOFS. The limb vector family: `ZERO` from acceptance to completion (41_limb_vector.md R120, R121; O27), and the host's conversions
of numbers and of hex text (R122 to R125; O57, O58).
-/

namespace Sys2Proof.Machine

/-! ### `ZERO` -/

/-- With no command in progress and the flags clear, `STATUS` is 0 (10_state.md R36). -/
theorem State.statusWord_eq_zero {s : State} (hp : s.phase = .idle) (he : s.err = .none) (hm : s.matched = false)
    (hc : s.hcount = 0) : s.statusWord = 0 := by
  rw [State.statusWord, State.busy, State.hwaiting, State.fatalBit, hp, he, hm, hc]
  rfl

theorem zero_wellFormed {rd : RegField} (hd : rd.toNat < 8) : (Instr.zero rd).WellFormed := by
  simp [Instr.WellFormed, Instr.wellFormed, Instr.rd, Instr.ra, Instr.rb, Instr.rm, optFieldOk, regFieldOk, hd]

/-- Settles O27: after acceptance (O16) the engine's step is `complete` with `zero()`. -/
theorem zeroCompletes : Obligations.ZeroCompletes := by
  intro rd s hd hp
  obtain ⟨u, haccept, hcmd, hop, hdst, -, -, -, hexec, hbusy, -, -, hcount, -, hv, -⟩ :=
    idleAcceptsCommand _ s (zero_wellFormed hd) hp
  have hreg : (u.complete (zeroValue u.width) .none false).v = s.v.set rd.toNat 0 := by
    simp only [State.complete_v, hv, hdst, zeroValue_eq_zero, Instr.rd]
  refine ⟨u, _, haccept, hbusy, exec_running _ u hexec hcmd hop, hreg, ?_, fun i => ?_, rfl, rfl, rfl, hcount,
    State.statusWord_eq_zero rfl rfl rfl hcount, hcmd⟩
  · rw [zeroValue_eq_zero]
    exact (congrArg (·[rd.toNat]) hreg).trans (Vector.getElem_set_self hd)
  · rw [zeroValue_eq_zero, limbOf_zero]

/-! ### Numbers -/

theorem ofLimbs_natLimbs (w : LimbWidth) (x : Nat) : ofLimbs w (natLimbs w x) = BitVec.ofNat 2048 x := by
  apply BitVec.eq_of_toNat_eq
  simp only [ofLimbs, valOf_natLimbs, bits_mul_count, BitVec.toNat_ofNat, Nat.mod_mod]

theorem toNative_eq_toNat (w : LimbWidth) (x : Value) : toNative w x = x.toNat := valOf_limbs w x

/-- `fromNative` of a representable number (41_limb_vector.md R123). -/
theorem fromNative_of_lt (w : LimbWidth) {n : Nat} (h : n < 2 ^ 2048) : fromNative w n = .ok (BitVec.ofNat 2048 n) := by
  have h0 : ¬ (n : Int) < 0 := Int.not_lt.mpr (Int.natCast_nonneg n)
  have hN : ¬ (2 : Int) ^ 2048 ≤ n := by exact_mod_cast Nat.not_le.mpr h
  rw [fromNative, if_neg h0, if_neg hN, Int.toNat_natCast, ofLimbs_natLimbs]

/-- `fromNative` of a number that is not representable (41_limb_vector.md R123). -/
theorem fromNative_of_outside (w : LimbWidth) {n : Int} (h : n < 0 ∨ 2 ^ 2048 ≤ n) : fromNative w n = .error .rangeError := by
  rw [fromNative]
  by_cases h0 : n < 0
  · rw [if_pos h0]
  · rw [if_neg h0, if_pos (h.resolve_left h0)]

/-- Settles O57: `toNative` is the number of a value, and `fromNative` of a number in range is the value of that number. -/
theorem nativeRoundTrip : Obligations.NativeRoundTrip := by
  refine fun w => ⟨fun x => ⟨toNative_eq_toNat w x, ?_⟩, fun n => fromNative_of_outside w, fun n h0 hN => ?_⟩
  · have hlt : toNative w x < 2 ^ 2048 := valOf_lt_two_pow_valueBits (limbs_length w x) (natLimbs_lt w x.toNat)
    exact (fromNative_of_lt w hlt).trans (congrArg Except.ok (ofLimbs_limbs w x))
  · obtain ⟨k, rfl⟩ := Int.eq_ofNat_of_zero_le h0
    have hk : k < 2 ^ 2048 := by exact_mod_cast hN
    exact ⟨_, fromNative_of_lt w hk, by simp only [toNative_eq_toNat, BitVec.toNat_ofNat, Nat.mod_eq_of_lt hk]⟩

/-! ### Hex text -/

theorem hexValue_eq_foldr (ds : List Nat) : hexValue ds = ds.foldr (fun c n => 16 * n + c) 0 := by
  induction ds with
  | nil => rfl
  | cons d ds ih => rw [hexValue, ih, List.foldr_cons, Nat.add_comm]

/-- Reading the digits from the most significant one down. -/
theorem hexValue_reverse (ds : List Nat) : hexValue ds.reverse = ds.foldl (fun n c => 16 * n + c) 0 := by
  rw [hexValue_eq_foldr, List.foldr_reverse]

/-- The lowest `g` digits and the others. -/
theorem hexValue_take_add_drop (g : Nat) (ds : List Nat) :
    hexValue (ds.take g) + 16 ^ g * hexValue (ds.drop g) = hexValue ds := by
  induction g generalizing ds with
  | zero => simp [hexValue]
  | succ g ih =>
    cases ds with
    | nil => simp [hexValue]
    | cons d ds =>
      rw [List.take_succ_cons, List.drop_succ_cons, hexValue, hexValue, ← ih ds]
      ring

/-- A limb is `L/4` hex digits. -/
theorem sixteen_pow_groupDigits (w : LimbWidth) : 16 ^ (w.bits / 4) = 2 ^ w.bits := by cases w <;> rfl

theorem groupDigits_mul_count (w : LimbWidth) : w.bits / 4 * w.count = 512 := by cases w <;> rfl

/-- The groups of `L/4` digits are the limbs of the number, where `n` groups hold all the digits (41_limb_vector.md R124, R125). -/
theorem valOf_hexGroups (w : LimbWidth) (n : Nat) (ds : List Nat) (h : ds.length ≤ w.bits / 4 * n) :
    valOf w (hexGroups (w.bits / 4) n ds) = hexValue ds := by
  induction n generalizing ds with
  | zero =>
    obtain rfl := List.length_eq_zero_iff.mp (Nat.le_zero.mp h)
    rfl
  | succ n ih =>
    have hdrop : (ds.drop (w.bits / 4)).length ≤ w.bits / 4 * n := by
      rw [List.length_drop, Nat.sub_le_iff_le_add, ← Nat.mul_succ]
      exact h
    rw [hexGroups, valOf, ih _ hdrop, ← sixteen_pow_groupDigits, hexValue_take_add_drop]

section
variable (w : LimbWidth) {d : List Char} {ds : List Nat}

theorem fromHex_of_length_le (hd : hexDigits d = some ds) (hl : ds.length ≤ 512) :
    fromHex w ('0' :: 'x' :: d) = .ok (BitVec.ofNat 2048 (hexValue ds.reverse)) := by
  have hgroups : ds.reverse.length ≤ w.bits / 4 * w.count := by
    rw [groupDigits_mul_count, List.length_reverse]
    exact hl
  simp only [fromHex, hd, gt_iff_lt, Nat.not_lt.mpr hl, if_false, ofLimbs, valOf_hexGroups w _ _ hgroups]

theorem fromHex_of_lt_length (hd : hexDigits d = some ds) (hl : 512 < ds.length) :
    fromHex w ('0' :: 'x' :: d) = .error .formatError := by
  simp only [fromHex, hd, gt_iff_lt, hl, if_true]

theorem fromHex_of_not_digits (hd : hexDigits d = none) : fromHex w ('0' :: 'x' :: d) = .error .formatError := by
  simp only [fromHex, hd]

theorem fromHex_of_other_prefix (hd : ∀ e, d ≠ '0' :: 'x' :: e) : fromHex w d = .error .formatError := by
  unfold fromHex
  split
  · next e => exact absurd rfl (hd e)
  · rfl

end

/-- Settles O58: `valOf_hexGroups` for the number, whose digits `fromHex` groups from the least significant one up. -/
theorem fromHexReadsNumber : Obligations.FromHexReadsNumber :=
  fun w _ => ⟨fun ds hd hl => hexValue_reverse ds ▸ fromHex_of_length_le w hd hl, fun _ => fromHex_of_lt_length w,
    fromHex_of_not_digits w, fromHex_of_other_prefix w⟩

end Sys2Proof.Machine
end

section
/-!
PROOFS. The subtractor: the value law of `SUBF` and its final borrow (42_subtractor.md R143, R145; O21), the locality of its limbs
(R147; O22), and `SUB` from acceptance to completion (R140; O28).
-/

namespace Sys2Proof.Machine

/-! ### Difference with borrow, in any width -/

section
variable {n c : Nat} {x y r : BitVec n} (h : r.toNat + y.toNat = x.toNat + 2 ^ n * c)
include h

theorem eq_sub_of_toNat_add : r = x - y := by
  have hadd : r + y = x := by
    apply BitVec.eq_of_toNat_eq
    rw [BitVec.toNat_add, h, Nat.add_mul_mod_self_left, Nat.mod_eq_of_lt x.isLt]
  exact eq_sub_of_add_eq hadd

theorem toNat_eq_sub_emod : (r.toNat : Int) = ((x.toNat : Int) - y.toNat) % 2 ^ n := by
  have hsum : (r.toNat : Int) + y.toNat = x.toNat + 2 ^ n * c := by exact_mod_cast h
  have hdiff : (x.toNat : Int) - y.toNat = r.toNat + 2 ^ n * -(c : Int) := by linear_combination -hsum
  have hlt : (r.toNat : Int) < 2 ^ n := by exact_mod_cast r.isLt
  rw [hdiff, Int.add_mul_emod_self_left, Int.emod_eq_of_lt (Int.natCast_nonneg _) hlt]

/-- A borrow bit is set exactly when the subtrahend is the greater (42_subtractor.md R145). -/
theorem borrow_eq_ite (hc : c ≤ 1) : c = if x.toNat < y.toNat then 1 else 0 := by
  have hr := r.isLt
  obtain rfl | rfl := Nat.le_one_iff_eq_zero_or_eq_one.mp hc
  · rw [if_neg (by omega)]
  · rw [if_pos (by omega)]

end

/-! ### `SUBF` as a number -/

section
variable (w : LimbWidth) (a b : Value)

/-- The result limbs of the loop are the limbs of `SUBF` (42_subtractor.md R141, R146). -/
theorem limbs_subf : limbs w (subf w a b) = (subLimbs (2 ^ w.bits) (limbs w a) (limbs w b) 0).1 := by
  obtain ⟨-, -, hlen, hlt⟩ := subLimbs_spec w (limbs w a) (limbs w b) 0 (by simp) (Nat.zero_le 1) (natLimbs_lt w a.toNat)
    (natLimbs_lt w b.toNat)
  exact limbs_ofLimbs (hlen.trans (limbs_length w a)) hlt

/-- The induction of 42_subtractor.md R143 over all W limbs, with the borrow a bit: the final borrow is worth `2^N`. -/
theorem subf_toNat_add_toNat :
    (subf w a b).toNat + b.toNat = a.toNat + 2 ^ 2048 * subBorrow w a b ∧ subBorrow w a b ≤ 1 := by
  obtain ⟨hval, hle, -, -⟩ := subLimbs_spec w (limbs w a) (limbs w b) 0 (by simp) (Nat.zero_le 1) (natLimbs_lt w a.toNat)
    (natLimbs_lt w b.toNat)
  rw [← limbs_subf, limbs_length, bits_mul_count, valOf_limbs, valOf_limbs, valOf_limbs, Nat.add_zero] at hval
  exact ⟨hval, hle⟩

/-- `SUBF` is the difference modulo `2^N` (42_subtractor.md R143). -/
theorem subf_eq_sub : subf w a b = a - b := eq_sub_of_toNat_add (subf_toNat_add_toNat w a b).1

end

/-- Settles O21: the result is in range, and `2^N` times the final borrow is what it differs by from the difference of the
integers. -/
theorem subtractorValueLaw : Obligations.SubtractorValueLaw := by
  intro w a b
  obtain ⟨hval, hle⟩ := subf_toNat_add_toNat w a b
  simp only [toNative_eq_toNat]
  exact ⟨toNat_eq_sub_emod hval, borrow_eq_ite hval hle⟩

/-! ### Locality -/

/-- The first `n` result limbs come from the first `n` limbs of the operands: the borrow only flows upwards (42_subtractor.md
R147). -/
theorem take_subLimbs (base : Nat) : ∀ (n : Nat) (as bs : List Nat) (borrow : Nat),
    (subLimbs base as bs borrow).1.take n = (subLimbs base (as.take n) (bs.take n) borrow).1
  | 0, _, _, _ => rfl
  | _ + 1, [], _, _ => rfl
  | _ + 1, _ :: _, [], _ => rfl
  | n + 1, a :: as, b :: bs, borrow => by simp only [subLimbs, List.take_succ_cons, take_subLimbs base n as bs]

/-- Values that agree in limbs 0 to `i` have the same first `i + 1` limbs. -/
theorem take_limbs_congr {w : LimbWidth} {x y : Value} {i : Nat} (h : ∀ j, j ≤ i → limbOf w x j = limbOf w y j) :
    (limbs w x).take (i + 1) = (limbs w y).take (i + 1) := by
  rw [limbs, limbs, ← List.map_take, ← List.map_take, List.take_range]
  refine List.map_congr_left fun j hj => h j ?_
  have := List.mem_range.mp hj
  omega

/-- Settles O22: limb `i` is the last of the first `i + 1` result limbs, and these come from the first `i + 1` operand limbs. -/
theorem subtractorLimbLocality : Obligations.SubtractorLimbLocality := by
  intro w a b a' b' i hi h
  have htake : (limbs w (subf w a b)).take (i + 1) = (limbs w (subf w a' b')).take (i + 1) := by
    rw [limbs_subf, limbs_subf, take_subLimbs, take_subLimbs, take_limbs_congr fun j hj => (h j hj).1,
      take_limbs_congr fun j hj => (h j hj).2]
  have hlimb : (limbs w (subf w a b))[i]? = (limbs w (subf w a' b'))[i]? := by
    rw [← List.getElem?_take_of_lt i.lt_succ_self, htake, List.getElem?_take_of_lt i.lt_succ_self]
  rw [limbs_getElem? w _ i hi, limbs_getElem? w _ i hi] at hlimb
  exact Option.some.inj hlimb

/-! ### `SUB` -/

theorem sub_wellFormed {rd ra rb : RegField} (hd : rd.toNat < 8) (ha : ra.toNat < 8) (hb : rb.toNat < 8) :
    (Instr.sub rd ra rb).WellFormed := by
  simp [Instr.WellFormed, Instr.wellFormed, Instr.rd, Instr.ra, Instr.rb, Instr.rm, optFieldOk, regFieldOk, hd, ha, hb]

/-- Settles O28: acceptance (O16) latches both sources, so the engine's step completes with `SUBF` of the values held then, whatever
register the destination is (10_state.md R33). -/
theorem subCompletes : Obligations.SubCompletes := by
  intro rd ra rb s hd ha hb hp
  obtain ⟨u, haccept, hcmd, hop, hdst, hla, hlb, -, hexec, hbusy, -, -, hcount, -, hv, -⟩ :=
    idleAcceptsCommand _ s (sub_wellFormed hd ha hb) hp
  refine ⟨u, _, haccept, hbusy, exec_running _ u hexec hcmd hop, ?_, rfl, rfl, rfl, hcount, hcmd⟩
  show u.v.set u.dst.val (subf u.width u.la u.lb) = _
  simp only [subf_eq_sub, hv, hdst, hla ra ha rfl, hlb rb hb rfl, Instr.rd]

end Sys2Proof.Machine
end

section
/-!
PROOFS. The multiplier: the value law of `MULF` (43_multiplier.md R164; O23), the accumulator bound, the range of the result limbs and
commutativity in value (R163, R166; O24), and `MUL` from acceptance to completion (R160; O29).
-/

namespace Sys2Proof.Machine

/-! ### The inner loop -/

/-- The accumulator bound (43_multiplier.md R163): a product of two digits, plus a digit and a carry, is below the square of the
base. -/
theorem mul_add_add_lt_mul_self {base a b r c : Nat} (ha : a < base) (hb : b < base) (hr : r < base) (hc : c < base) :
    a * b + r + c < base * base := by
  obtain ⟨n, rfl⟩ := Nat.exists_eq_add_of_lt ha
  have hprod : a * b ≤ (a + n) * (a + n) := Nat.mul_le_mul (by omega) (by omega)
  have hsquare : (a + n + 1) * (a + n + 1) = (a + n) * (a + n) + 2 * (a + n) + 1 := by ring
  omega

/-- The bound holds in every turn: what it leaves as the carry is again a digit (43_multiplier.md R163). -/
theorem rowProducts_lt {base bj : Nat} (hbj : bj < base) : ∀ (as rs : List Nat) (carry : Nat), carry < base →
    (∀ a ∈ as, a < base) → (∀ r ∈ rs, r < base) → ∀ p ∈ rowProducts base bj as rs carry, p < base * base
  | [], _, _, _, _, _ => by simp [rowProducts]
  | _ :: _, [], _, _, _, _ => by simp [rowProducts]
  | a :: as, r :: rs, carry, hc, has, hrs => by
    obtain ⟨ha, has⟩ := List.forall_mem_cons.mp has
    obtain ⟨hr, hrs⟩ := List.forall_mem_cons.mp hrs
    have hp := mul_add_add_lt_mul_self ha hbj hr hc
    exact List.forall_mem_cons.mpr ⟨hp, rowProducts_lt hbj as rs _ (Nat.div_lt_of_lt_mul hp) has hrs⟩

/-- The inner loop stores the low half of every `p` and leaves the result limbs beyond it (43_multiplier.md R161, R165). -/
theorem mulRow_eq_map_rowProducts (base bj : Nat) : ∀ (as rs : List Nat) (carry : Nat),
    mulRow base bj as rs carry = (rowProducts base bj as rs carry).map (· % base) ++ rs.drop as.length
  | [], _, _ => by simp [mulRow, rowProducts]
  | _ :: _, [], _ => by simp [mulRow, rowProducts]
  | a :: as, r :: rs, carry => by simp [mulRow, rowProducts, mulRow_eq_map_rowProducts base bj as rs]

/-! ### `MULF` as a number -/

section
variable (w : LimbWidth) (a b : Value)

/-- The passes over all limbs of `b`, from `zero()`, leave the truncated product (43_multiplier.md R164). -/
theorem valOf_mulPasses_limbs : valOf w (mulPasses (2 ^ w.bits) (limbs w a) (limbs w b) 0 (List.replicate w.count 0)) ≡
    a.toNat * b.toNat [MOD 2 ^ (w.bits * w.count)] := by
  have h := mulPasses_val w (limbs w a) (limbs w b) 0 (List.replicate w.count 0) (by simp) (by simp)
  rwa [List.length_replicate, valOf_replicate_zero, Nat.mul_zero, Nat.pow_zero, Nat.one_mul, Nat.zero_add,
    valOf_limbs, valOf_limbs] at h

/-- The value law of `MULF` (43_multiplier.md R164). -/
theorem toNat_mulf : (mulf w a b).toNat = a.toNat * b.toNat % 2 ^ 2048 := by
  have h := valOf_mulPasses_limbs w a b
  rw [Nat.ModEq, bits_mul_count] at h
  simp only [mulf, ofLimbs, BitVec.toNat_ofNat, h]

/-- `MULF` is the product of bit vectors, which is truncated alike. -/
theorem mulf_eq_mul : mulf w a b = a * b := by
  apply BitVec.eq_of_toNat_eq
  simp only [toNat_mulf, BitVec.toNat_mul]

end

/-- Settles O23: the digit sum of a value's limbs is the value, so this is the law of the loops. -/
theorem multiplierValueLaw : Obligations.MultiplierValueLaw := by
  intro w a b
  simp only [toNative_eq_toNat, toNat_mulf]

/-- Settles O24: the bound is an induction over the turns of the inner loop, the limbs' range one over the passes, and `MULF`
commutes as the product does. -/
theorem multiplierLimbsAndCommutes : Obligations.MultiplierLimbsAndCommutes := by
  refine ⟨fun w bj carry as rs hbj hc has hrs => ⟨fun p hp => ?_, mulRow_eq_map_rowProducts _ bj as rs carry⟩,
    fun w as bs res j => mulPasses_lt _ (base_pos w) as bs j res, fun w a b => ?_⟩
  · have hlt : p < 2 ^ w.bits * 2 ^ w.bits := rowProducts_lt hbj as rs carry hc has hrs p hp
    rw [Nat.two_mul, Nat.pow_add]
    exact ⟨Nat.le_sub_one_of_lt hlt, Nat.le_sub_one_of_lt (Nat.div_lt_of_lt_mul hlt)⟩
  · rw [mulf_eq_mul, mulf_eq_mul, BitVec.mul_comm]

/-! ### `MUL` -/

theorem mul_wellFormed {rd ra rb : RegField} (hd : rd.toNat < 8) (ha : ra.toNat < 8) (hb : rb.toNat < 8) :
    (Instr.mul rd ra rb).WellFormed := by
  simp [Instr.WellFormed, Instr.wellFormed, Instr.rd, Instr.ra, Instr.rb, Instr.rm, optFieldOk, regFieldOk, hd, ha, hb]

/-- Settles O29: both sources are latched at acceptance (O16), and the engine's step completes with `MULF` of the latches, so a
destination that is also a source changes nothing in the product (10_state.md R33). -/
theorem mulCompletes : Obligations.MulCompletes := by
  intro rd ra rb s hd ha hb hp
  obtain ⟨u, haccept, hcmd, hop, hdst, hla, hlb, -, hexec, hbusy, -, -, hcount, -, hv, -⟩ :=
    idleAcceptsCommand _ s (mul_wellFormed hd ha hb) hp
  refine ⟨u, _, haccept, hbusy, exec_running _ u hexec hcmd hop, ?_, rfl, rfl, rfl, hcount, hcmd⟩
  show u.v.set u.dst.val (mulf u.width u.la u.lb) = _
  simp only [mulf_eq_mul, hv, hdst, hla ra ha rfl, hlb rb hb rfl, Instr.rd]

end Sys2Proof.Machine
end

section
/-!
PROOFS. The modular reducer: what `CHECK` decides (44_reducer.md R183, R184, R186; O25, O26), the engine's steps on a hint that passes
or fails (R181, R187; O31, O33, O36), the zero modulus (R188; O32), runs of a command's moves among the host's polls
(70_reset_and_hazards.md R266), and a whole `MULMOD` (R185; O34).
-/

namespace Sys2Proof.Machine

/-! ### `CHECK` as an identity -/

/-- Values are equal in all W limbs exactly when they are equal (00_scope.md R14). -/
theorem limbsEq_iff (w : LimbWidth) (x y : Value) : limbsEq w x y = true ↔ x = y := by
  rw [limbsEq, beq_iff_eq]
  refine ⟨fun h => ?_, congrArg (limbs w)⟩
  rw [← ofLimbs_limbs w x, h, ofLimbs_limbs]

/-- `CHECK` decides the identity of 44_reducer.md R183 modulo `2^N`. -/
theorem check_iff (w : LimbWidth) (a b m q r : Value) : check w a b m q r = true ↔ a * b - q * m = r := by
  rw [check, limbsEq_iff, subf_eq_sub, mulf_eq_mul, mulf_eq_mul]

theorem check_eq_false_iff (w : LimbWidth) (a b m q r : Value) : check w a b m q r = false ↔ a * b - q * m ≠ r := by
  rw [← Bool.not_eq_true, check_iff]

/-- The product of two values is the truncated product of 44_reducer.md. -/
theorem toNat_mul_eq_truncProd (a b : Value) : (a * b).toNat = truncProd a b := by
  rw [← mulf_eq_mul .l64, toNat_mulf, truncProd]

/-- The difference of two values as a number (42_subtractor.md R143). -/
theorem toNat_sub_emod (x y : Value) : ((x - y).toNat : Int) = ((x.toNat : Int) - y.toNat) % 2 ^ 2048 :=
  subf_eq_sub .l64 x y ▸ toNat_eq_sub_emod (subf_toNat_add_toNat .l64 x y).1

/-- `CHECK` on the numbers (44_reducer.md R186). -/
theorem check_iff_toNat (w : LimbWidth) (a b m q r : Value) : check w a b m q r = true ↔
    (r.toNat : Int) = ((truncProd a b : Int) - (q.toNat * m.toNat % 2 ^ 2048 : Nat)) % 2 ^ 2048 := by
  have hval := toNat_sub_emod (a * b) (q * m)
  rw [toNat_mul_eq_truncProd, BitVec.toNat_mul] at hval
  rw [check_iff, ← BitVec.toNat_inj, ← hval, Nat.cast_inj, eq_comm]

/-! ### Hints -/

section
variable {a b m q r : Value} (h : HintCorrect a b m q r)
include h

/-- The quotient times the modulus of a correct hint does not wrap (44_reducer.md R184). -/
theorem HintCorrect.toNat_mul : (q * m).toNat = q.toNat * m.toNat := by
  obtain ⟨-, -, hT⟩ := h
  have hlt := (a * b).isLt
  rw [toNat_mul_eq_truncProd, hT] at hlt
  rw [BitVec.toNat_mul, Nat.mod_eq_of_lt ((Nat.le_add_right _ _).trans_lt hlt)]

theorem HintCorrect.toNat_product : (a * b).toNat = (q * m).toNat + r.toNat := by
  obtain ⟨-, -, hT⟩ := id h
  rw [h.toNat_mul, toNat_mul_eq_truncProd, hT]

/-- A correct hint meets the identity that `CHECK` decides. -/
theorem HintCorrect.identity : a * b - q * m = r := by
  have hsum : a * b = r + q * m := by
    apply BitVec.eq_of_toNat_eq
    rw [BitVec.toNat_add, Nat.add_comm, ← h.toNat_product, Nat.mod_eq_of_lt (a * b).isLt]
  exact sub_eq_of_eq_add hsum

theorem HintCorrect.remainder : r.toNat = truncProd a b % m.toNat := by
  obtain ⟨-, hr, hT⟩ := h
  rw [hT, Nat.mul_comm, Nat.mul_add_mod, Nat.mod_eq_of_lt hr]

/-- The subtraction of the check does not wrap on a correct hint (44_reducer.md R184). -/
theorem HintCorrect.subBorrow_eq_zero (w : LimbWidth) : subBorrow w (mulf w a b) (mulf w q m) = 0 := by
  have hle : ¬ (a * b).toNat < (q * m).toNat := by
    rw [h.toNat_product]
    exact Nat.not_lt.mpr (Nat.le_add_right _ _)
  rw [(subtractorValueLaw w _ _).2, toNative_eq_toNat, toNative_eq_toNat, mulf_eq_mul, mulf_eq_mul, if_neg hle]

end

section
variable {k : Nat} {x q m n r : BitVec k}

theorem le_toNat_add (h : r.toNat + m.toNat < 2 ^ k) : m.toNat ≤ (r + m).toNat := by
  rw [BitVec.toNat_add_of_lt h]
  exact Nat.le_add_left _ _

/-- One modulus moved from the quotient to the remainder keeps the identity (44_reducer.md R186). -/
theorem identity_shifted (h : x - q * m = r) : x - (q - 1) * m = r + m := by linear_combination h

/-- With an inverse of the modulus every remainder has a quotient that meets the identity (44_reducer.md R186). -/
theorem identity_of_inverse (h : m * n = 1) : x - (x - r) * n * m = r := by linear_combination (r - x) * h

end

/-- An odd number has an inverse modulo a power of two. -/
theorem exists_inverse_of_odd {k : Nat} {m : BitVec k} (h : m.toNat % 2 = 1) : ∃ n : BitVec k, m * n = 1 := by
  have hk : k ≠ 0 := by
    rintro rfl
    simp [BitVec.eq_nil m] at h
  have hco : Nat.Coprime m.toNat (2 ^ k) := (Nat.coprime_two_right.mpr (Nat.odd_iff.mpr h)).pow_right k
  obtain ⟨n, -, hn⟩ := Nat.exists_mul_mod_eq_one_of_coprime hco (Nat.one_lt_two_pow hk)
  refine ⟨BitVec.ofNat k n, BitVec.eq_of_toNat_eq ?_⟩
  rw [BitVec.toNat_mul, BitVec.toNat_ofNat, Nat.mul_mod_mod, hn]
  exact (Nat.mod_eq_of_lt (Nat.one_lt_two_pow hk)).symm

/-! ### The engine's step on a response -/

section
variable {s : State} {p : HintResp} (hr : s.hresp = some p)
include hr

theorem State.mulmodStep_pass (h : s.la * s.lb - p.q * s.lm = p.r) :
    s.mulmodStep = s.takeResponse.complete p.r .none false := by
  rw [s.mulmodStep_check p hr, s.modmulCheck_pass _ _ p _ ((check_iff _ _ _ _ _ _).mpr h)]

theorem State.mulmodStep_fail (h : s.la * s.lb - p.q * s.lm ≠ p.r) :
    s.mulmodStep = s.takeResponse.fatal .verification := by
  rw [s.mulmodStep_check p hr, s.modmulCheck_fail _ _ p _ ((check_eq_false_iff _ _ _ _ _ _).mpr h)]

theorem State.rsavStep_pass (h : s.acc * s.rsaOperand s.round - p.q * s.lm = p.r) :
    s.rsavStep = s.takeResponse.setAcc p.r := by
  rw [s.rsavStep_check p hr, s.modmulCheck_pass _ _ p _ ((check_iff _ _ _ _ _ _).mpr h)]

theorem State.rsavStep_fail (h : s.acc * s.rsaOperand s.round - p.q * s.lm ≠ p.r) :
    s.rsavStep = s.takeResponse.fatal .verification := by
  rw [s.rsavStep_check p hr, s.modmulCheck_fail _ _ p _ ((check_eq_false_iff _ _ _ _ _ _).mpr h)]

end

theorem engineWork_of_mulmod {i : Instr} (h : i.opcode = .mulmod) (s : State) : engineWork i s = s.mulmodStep := by
  cases i with
  | mulmod => rfl
  | _ => cases h

theorem engineWork_of_rsav {i : Instr} (h : i.opcode = .rsav) (s : State) : engineWork i s = s.rsavStep := by
  cases i with
  | rsav => rfl
  | _ => cases h

/-- Settles O25: a correct hint meets the identity of R183, so the engine's step takes the branch of a passed check. -/
theorem correctHintPasses : Obligations.CorrectHintPasses := by
  refine ⟨fun w a b m q r h => ⟨?_, h.subBorrow_eq_zero w, (check_iff w a b m q r).mpr h.identity⟩, ?_⟩
  · rw [toNative_eq_toNat, mulf_eq_mul, h.toNat_mul]
  · rintro i s p hp hc ho hr (⟨hop, h⟩ | ⟨hop, h⟩)
    · have hwork := (engineWork_of_mulmod (ho.symm.trans hop) s).trans (State.mulmodStep_pass hr h.identity)
      exact ⟨_, (exec_running i s hp hc ho).trans (congrArg _ hwork), nofun, nofun⟩
    · have hwork := (engineWork_of_rsav (ho.symm.trans hop) s).trans (State.rsavStep_pass hr h.identity)
      exact ⟨_, (exec_running i s hp hc ho).trans (congrArg _ hwork), by simp [hp], id⟩

/-- The engine's step of `MULMOD` on a response that meets the identity. -/
theorem exec_mulmod_pass {rd ra rb rm : RegField} {s : State} {p : HintResp} (hp : s.phase = .exec)
    (hc : s.cmd = encode (.mulmod rd ra rb rm)) (ho : s.op = .mulmod) (hr : s.hresp = some p)
    (h : s.la * s.lb - p.q * s.lm = p.r) :
    exec (.mulmod rd ra rb rm) s = .next (s.takeResponse.complete p.r .none false) :=
  (exec_running _ s hp hc ho).trans (congrArg _ (State.mulmodStep_pass hr h))

/-- Settles O26: `CHECK` is an identity of values, which the two families of wrong hints meet by the laws of the ring. -/
theorem checkOfArbitraryHint : Obligations.CheckOfArbitraryHint := by
  refine ⟨check_iff_toNat, fun rd ra rb rm s p hp hc ho hr hpass => ?_, fun w a b m q r h _ hlt => ⟨?_, ?_⟩,
    fun m => exists_inverse_of_odd, fun w a b m n r h => ?_⟩
  · exact ⟨_, exec_mulmod_pass hp hc ho hr ((check_iff _ _ _ _ _ _).mp hpass), rfl, rfl⟩
  · exact (check_iff _ _ _ _ _ _).mpr (identity_shifted h.identity)
  · exact le_toNat_add hlt
  · have hT : BitVec.ofNat 2048 (truncProd a b) = a * b := by
      rw [← toNat_mul_eq_truncProd, BitVec.ofNat_toNat, BitVec.setWidth_eq]
    rw [hT]
    exact (check_iff _ _ _ _ _ _).mpr (identity_of_inverse h)

/-- Settles O31: the engine's step is `complete` after the response is taken. -/
theorem mulmodCompletes : Obligations.MulmodCompletes := fun _ _ _ _ _ _ hp hc ho hr h =>
  ⟨_, exec_mulmod_pass hp hc ho hr h, rfl, rfl, rfl, rfl, rfl, rfl, rfl⟩

/-- Settles O36: the engine's step sets the accumulator after the response is taken. -/
theorem rsavRoundPasses : Obligations.RsavRoundPasses := fun _ _ _ _ s _ hp hc ho hr h =>
  ⟨_, (exec_running _ s hp hc ho).trans (congrArg _ (State.rsavStep_pass hr h)), rfl, rfl, rfl, hp, rfl, rfl⟩

/-- Settles O33: the engine's step is fatal entry after the response is taken, and then `HCOUNT` is the open round. -/
theorem failedCheckIsFatal : Obligations.FailedCheckIsFatal := by
  intro i s p hinv hp hd hr hfail
  obtain ⟨-, hc⟩ := decode_eq_ok_iff.mp hd
  have ho : s.op = i.opcode := by
    obtain ⟨j, hj, hop, -⟩ := hinv.running (State.busy_of_exec hp)
    cases hd.symm.trans hj
    exact hop
  have hwork : engineWork i s = s.takeResponse.fatal .verification := by
    obtain ⟨hop, h⟩ | ⟨hop, h⟩ := hfail
    · exact (engineWork_of_mulmod (ho.symm.trans hop) s).trans (State.mulmodStep_fail hr h)
    · exact (engineWork_of_rsav (ho.symm.trans hop) s).trans (State.rsavStep_fail hr h)
  have hn : s.takeResponse.phase ≠ .halted := by simp [hp]
  have hround := hinv.takeResponse_hcount_toNat hp hr
  obtain ⟨-, -, hfirst⟩ := hinv.round_of_response hp hr
  refine ⟨_, (exec_running i s hp hc.symm ho).trans (congrArg _ hwork), State.fatal_phase _ _, State.fatal_err _ _ hn, ?_,
    fun hop => ?_, State.fatal_v _ _, State.fatal_hreq _ _ hn, State.fatal_matched _ _ hn, State.fatal_cmd _ _⟩
  · rw [State.fatal_hcount, hround]
  · rw [State.fatal_hcount]
    exact BitVec.eq_of_toNat_eq (hround.trans (hfirst hop))

/-! ### The zero modulus -/

/-- The first step of a command with a modulus, on a zero modulus: fatal entry, where `RSAV` has set its accumulator (44_reducer.md
R188; 45_rsa.md R202; log entry 23). -/
theorem engineWork_zero_modulus {i : Instr} {rm : RegField} {s : State} (hi : i.rm = some rm) (hr : s.hresp = none)
    (hk : s.round < 17) (hm : s.lm = 0) : ∃ x, engineWork i s = (s.setAcc x).fatal .modulusZero := by
  cases i with
  | mulmod => exact ⟨s.acc, (s.mulmodStep_issue hr).trans (s.modmulIssue_zero _ _ _ hm)⟩
  | rsav =>
    refine ⟨s.roundAcc, (s.rsavStep_issue hr hk).trans ?_⟩
    rw [s.rsaIssue_eq]
    exact State.modmulIssue_zero (s.setAcc s.roundAcc) _ _ _ hm
  | _ => cases hi

/-- Settles O32: acceptance (O16) latches the zero, and the first step is fatal entry. -/
theorem zeroModulusIsFatal : Obligations.ZeroModulusIsFatal := by
  intro i rm hm s hwf hi hp hr hz
  obtain ⟨u, haccept, hcmd, hop, -, -, -, hlm, hexec, -, -, -, hcount, hround, hv, -, -, -, hresp, -⟩ :=
    idleAcceptsCommand i s hwf hp
  obtain ⟨x, hwork⟩ := engineWork_zero_modulus hi (hresp.trans hr) (by simp [hround]) ((hlm rm hm hi).trans hz)
  have hn : (u.setAcc x).phase ≠ .halted := by simp [hexec]
  refine ⟨u, _, haccept, hexec, (exec_running i u hexec hcmd hop).trans (congrArg _ hwork), State.fatal_phase _ _,
    State.fatal_err _ _ hn, ?_, State.fatal_hreq _ _ hn, ?_⟩
  · rw [State.fatal_hcount]
    exact hcount
  · rw [State.fatal_v]
    exact hv

/-! ### A run of moves among the host's polls -/

/-- The move `e` takes `s` to `u`, with nothing waiting and whatever is to come and has been read. -/
def State.Handles (s : State) (e : Event) (u : State) : Prop :=
  ∀ es rs, (s.withPort [] es rs).handleEvent e = .next (u.withPort [] es rs)

/-- The moves take `s` to the last state, one after the other. -/
inductive State.Moves : State → List Event → State → Prop
  | nil (s : State) : State.Moves s [] s
  | cons {s u t : State} {e : Event} {es : List Event} (h : s.Handles e u) (ht : State.Moves u es t) : State.Moves s (e :: es) t

/-- A run of moves with polls anywhere among them goes where the moves alone go, and the polls leave answers (20_memory.md R66;
70_reset_and_hazards.md R266). -/
theorem State.Moves.run_among_polls {t : State} {es : List Event} (ms : List Event) :
    ∀ {s : State} {rs : List ReadRecord}, State.Moves s (withoutPolls ms) t →
      ∃ rs', core.run ms.length (s.withPort [] (ms ++ es) rs) = .next (t.withPort [] es rs') := by
  induction ms with
  | nil =>
    intro s rs h
    cases h
    exact ⟨rs, rfl⟩
  | cons e ms ih =>
    intro s rs h
    rw [withoutPolls_cons] at h
    cases he : e.isPoll with
    | true =>
      rw [if_pos he] at h
      obtain ⟨x, d, hstep⟩ := step_poll (s.withPort [] (e :: (ms ++ es)) rs) e (ms ++ es) he rfl rfl
      obtain ⟨rs', hrun⟩ := ih (rs := rs ++ [⟨x, d⟩]) h
      exact ⟨rs', (run_succ_of_step ms.length hstep).trans hrun⟩
    | false =>
      rw [if_neg (by simp [he])] at h
      cases h with
      | cons hu ht =>
        have hstep := step_event (s.withPort [] (e :: (ms ++ es)) rs) e (ms ++ es) rfl
        obtain ⟨rs', hrun⟩ := ih (rs := rs) ht
        exact ⟨rs', (run_succ_of_step ms.length (hstep.trans (hu (ms ++ es) rs))).trans hrun⟩

/-- With nothing waiting at the start, a run goes where its moves go without the polls. -/
theorem State.Moves.run {s t : State} {ms es : List Event} (h : State.Moves s (withoutPolls ms) t) (hh : s.held = [])
    (he : s.events = ms ++ es) : ∃ rs, core.run ms.length s = .next (t.withPort [] es rs) := by
  have hs : s = s.withPort [] (ms ++ es) s.reads := by
    rw [← hh, ← he]
    rfl
  rw [hs]
  exact h.run_among_polls ms

/-- The `CMD` write of a well-formed command in phase IDLE (10_state.md R47). -/
theorem State.handles_cmdWrite {s : State} {i : Instr} (hi : i.WellFormed) (hp : s.phase = .idle) :
    s.Handles (.host (.writeCtrl 2 (encode i))) (s.accept i) := by
  intro es rs
  have hissue := (s.withPort [] es rs).issueHost_of_free (.writeCtrl 2 (encode i)) rfl (State.not_busy (.inl hp))
  refine hissue.trans (((s.withPort [] es rs).writeCmd_of_encode hi).trans ?_)
  rw [exec_idle i (s.withPort [] es rs) hp, State.accept_of_wellFormed _ i hi, State.accept_of_wellFormed s i hi]
  rfl

/-- The engine's step of the command in progress, where it looks at neither the port nor what is to come. -/
theorem State.handles_engine {s u : State} {i : Instr} (hi : i.WellFormed) (hp : s.phase = .exec) (hc : s.cmd = encode i)
    (ho : s.op = i.opcode) (hu : ∀ es rs, engineWork i (s.withPort [] es rs) = u.withPort [] es rs) : s.Handles .engine u := by
  intro es rs
  have hd : decode (s.withPort [] es rs).cmd = .ok i := (congrArg decode hc).trans (decode_encode hi)
  have hstep := exec_running i (s.withPort [] es rs) hp hc ho
  rw [hu es rs] at hstep
  exact (State.engineTurn_exec (s.withPort [] es rs) i hp hd).trans hstep

/-- The response to the outstanding request (20_memory.md R77). -/
theorem State.handles_hint {s : State} (p : HintResp) (hp : s.phase = .hwait) : s.Handles (.hint p) (s.receive p) :=
  fun es rs => congrArg _ ((s.withPort [] es rs).hintResponse_hwait p hp)

/-! ### A whole `MULMOD` -/

theorem mulmod_wellFormed {rd ra rb rm : RegField} (hd : rd.toNat < 8) (ha : ra.toNat < 8) (hb : rb.toNat < 8)
    (hm : rm.toNat < 8) : (Instr.mulmod rd ra rb rm).WellFormed := by
  simp [Instr.WellFormed, Instr.wellFormed, Instr.rd, Instr.ra, Instr.rb, Instr.rm, optFieldOk, regFieldOk, hd, ha, hb, hm]

section
variable {rd ra rb rm : RegField} {s : State} {p : HintResp} (hi : (Instr.mulmod rd ra rb rm).WellFormed) (hp : s.phase = .exec)
  (hc : s.cmd = encode (.mulmod rd ra rb rm)) (ho : s.op = .mulmod)
include hi hp hc ho

theorem State.handles_mulmodRequest (hr : s.hresp = none) (hm : s.lm ≠ 0) :
    s.Handles .engine (s.request 1 s.la s.lb s.lm) :=
  State.handles_engine hi hp hc ho fun es rs =>
    ((s.withPort [] es rs).mulmodStep_issue hr).trans (State.modmulIssue_nonzero _ 1 _ _ hm)

theorem State.handles_mulmodPass (hr : s.hresp = some p) (h : s.la * s.lb - p.q * s.lm = p.r) :
    s.Handles .engine (s.takeResponse.complete p.r .none false) :=
  State.handles_engine hi hp hc ho fun es rs => State.mulmodStep_pass (s := s.withPort [] es rs) hr h

/-- `MULMOD` from its acceptance on: the request, the response, and the completion with a response that meets the identity. -/
theorem State.moves_mulmod (hr : s.hresp = none) (hm : s.lm ≠ 0) (h : s.la * s.lb - p.q * s.lm = p.r) :
    State.Moves s (roundMoves [p]) (((s.request 1 s.la s.lb s.lm).receive p).takeResponse.complete p.r .none false) :=
  .cons (State.handles_mulmodRequest hi hp hc ho hr hm) (.cons (State.handles_hint p rfl)
    (.cons (State.handles_mulmodPass hi rfl hc ho rfl h) (.nil _)))

end

/-- Settles O34: the command's moves go from acceptance (O16) to a completion with the hint's remainder, and the polls among them
change nothing. -/
theorem mulmodValueUnderCorrectHint : Obligations.MulmodValueUnderCorrectHint := by
  intro rd ra rb rm s p ms es hd ha hb hm hp hh hr he hms hint
  have hwf := mulmod_wellFormed hd ha hb hm
  obtain ⟨u, haccept, hcmd, hop, hdst, hla, hlb, hlm, hexec, -, -, -, hcount, -, hv, -, -, -, hresp, -⟩ :=
    idleAcceptsCommand _ s hwf hp
  have hu : s.accept _ = u := Host.Outcome.next.inj ((exec_idle _ s hp).symm.trans haccept)
  rw [← hla ra ha rfl, ← hlb rb hb rfl, ← hlm rm hm rfl] at hint ⊢
  obtain ⟨hm0, hlt, -⟩ := id hint
  have hmoves := State.Moves.cons (hu ▸ State.handles_cmdWrite hwf hp)
    (State.moves_mulmod hwf hexec hcmd hop (hresp.trans hr) (fun e => hm0 (e ▸ BitVec.toNat_zero)) hint.identity)
  rw [← hms] at hmoves
  obtain ⟨rs, hrun⟩ := hmoves.run hh he
  have hreg : u.v.set u.dst.val p.r = s.v.set rd.toNat p.r := by simp only [hv, hdst, Instr.rd]
  have hresult : (u.v.set u.dst.val p.r)[rd.toNat] = p.r := by simp only [hreg, Vector.getElem_set_self]
  refine ⟨_, hrun, fun r hne => ?_, (congrArg BitVec.toNat hresult).trans hint.remainder,
    (congrArg BitVec.toNat hresult).trans_lt hlt, rfl, rfl, rfl, congrArg (· + 1) hcount, rfl⟩
  exact (congrArg (·[r.val]) hreg).trans (Vector.getElem_set_ne hd r.isLt hne.symm)

end Sys2Proof.Machine
end

section
/-!
PROOFS. The RSA-65537 engine (45_rsa.md): the end of `RSAV` (R203 to R205; O37), a whole `RSAV` on 17 responses that pass (R201,
R209; O38), the truncated exponentiation under correct hints (R207; O39), and when it is `sig^65537 mod m` (R208; O40).
-/

namespace Sys2Proof.Machine

/-! ### The end of `RSAV` -/

/-- The accumulator is written in both outcomes, and `MATCH` and `ERR` say whether it is the message (45_rsa.md R203, R204). -/
theorem State.rsaFinish_eq (s : State) :
    s.rsaFinish = s.complete s.acc (if s.acc = s.la then .none else .sigMismatch) (decide (s.acc = s.la)) := by
  rw [State.rsaFinish, if_congr (limbsEq_iff s.width s.acc s.la) rfl rfl]
  by_cases h : s.acc = s.la
  · rw [if_pos h, if_pos h, decide_eq_true h]
  · rw [if_neg h, if_neg h, decide_eq_false h]

theorem State.rsavStep_complete {s : State} (hr : s.hresp = none) (hk : 17 ≤ s.round) :
    s.rsavStep = s.complete s.acc (if s.acc = s.la then .none else .sigMismatch) (decide (s.acc = s.la)) :=
  (s.rsavStep_finish hr hk).trans s.rsaFinish_eq

/-- Settles O37: the engine's step after round 17 is `complete` with the accumulator. -/
theorem rsavCompletes : Obligations.RsavCompletes := fun _ _ _ _ s hp hc ho hr hk =>
  ⟨_, (exec_running _ s hp hc ho).trans (congrArg _ (State.rsavStep_complete hr hk.ge)), rfl, rfl, rfl, rfl, rfl⟩

/-! ### The rounds of `RSAV` -/

theorem State.Moves.append {s u t : State} {es fs : List Event} (h : State.Moves s es u) (ht : State.Moves u fs t) :
    State.Moves s (es ++ fs) t := by
  induction h with
  | nil _ => exact ht
  | cons hu _ ih => exact .cons hu (ih ht)

theorem rsav_wellFormed {rd ra rb rm : RegField} (hd : rd.toNat < 8) (ha : ra.toNat < 8) (hb : rb.toNat < 8)
    (hm : rm.toNat < 8) : (Instr.rsav rd ra rb rm).WellFormed := by
  simp [Instr.WellFormed, Instr.wellFormed, Instr.rd, Instr.ra, Instr.rb, Instr.rm, optFieldOk, regFieldOk, hd, ha, hb, hm]

/-- The request of the next round of `RSAV` (45_rsa.md R201). -/
def State.roundRequested (s : State) : State :=
  (s.setAcc s.roundAcc).request (s.round + 1) s.roundAcc ((s.setAcc s.roundAcc).rsaOperand (s.round + 1)) s.lm

/-- `n` rounds of `RSAV` later, with every check passed and the accumulator `x` (45_rsa.md R201). -/
def State.roundsPassed (s : State) (x : Value) (n : Nat) : State :=
  { s with phase := .exec, acc := x, round := s.round + n, hcount := s.hcount + BitVec.ofNat 5 n, hreq := none, hresp := none }

section
variable (s : State) (x : Value) (n : Nat)

@[simp] theorem State.roundsPassed_v : (s.roundsPassed x n).v = s.v := rfl
@[simp] theorem State.roundsPassed_dst : (s.roundsPassed x n).dst = s.dst := rfl
@[simp] theorem State.roundsPassed_la : (s.roundsPassed x n).la = s.la := rfl
@[simp] theorem State.roundsPassed_acc : (s.roundsPassed x n).acc = x := rfl
@[simp] theorem State.roundsPassed_round : (s.roundsPassed x n).round = s.round + n := rfl
@[simp] theorem State.roundsPassed_hcount : (s.roundsPassed x n).hcount = s.hcount + BitVec.ofNat 5 n := rfl

/-- After a passed round the next one takes the remainder as its accumulator. -/
@[simp] theorem State.roundsPassed_roundAcc : (s.roundsPassed x (n + 1)).roundAcc = x := if_neg (Nat.succ_ne_zero _)

end

theorem State.roundsPassed_roundsPassed (s : State) (x y : Value) (n k : Nat) :
    (s.roundsPassed x n).roundsPassed y k = s.roundsPassed y (n + k) := by
  simp only [State.roundsPassed, Nat.add_assoc, BitVec.add_assoc, BitVec.ofNat_add]

/-- A requested and answered round whose check passes is one round passed. -/
theorem State.roundRequested_passed (s : State) (p : HintResp) :
    (s.roundRequested.receive p).takeResponse.setAcc p.r = s.roundsPassed p.r 1 := by
  simp only [State.roundRequested, State.request, State.receive, State.takeResponse, State.setAcc, State.roundsPassed]
  rfl

section
variable {rd ra rb rm : RegField} {s : State} {p : HintResp} (hi : (Instr.rsav rd ra rb rm).WellFormed) (hp : s.phase = .exec)
  (hc : s.cmd = encode (.rsav rd ra rb rm)) (ho : s.op = .rsav)
include hi hp hc ho

theorem State.handles_rsavRequest (hr : s.hresp = none) (hk : s.round < 17) (hm : s.lm ≠ 0) :
    s.Handles .engine s.roundRequested :=
  State.handles_engine hi hp hc ho fun es rs => State.rsavStep_request (s := s.withPort [] es rs) hr hk hm

theorem State.handles_rsavPass (hr : s.hresp = some p) (h : s.acc * s.rsaOperand s.round - p.q * s.lm = p.r) :
    s.Handles .engine (s.takeResponse.setAcc p.r) :=
  State.handles_engine hi hp hc ho fun es rs => State.rsavStep_pass (s := s.withPort [] es rs) hr h

theorem State.handles_rsavFinish (hr : s.hresp = none) (hk : 17 ≤ s.round) : s.Handles .engine
    (s.complete s.acc (if s.acc = s.la then .none else .sigMismatch) (decide (s.acc = s.la))) :=
  State.handles_engine hi hp hc ho fun es rs => State.rsavStep_complete (s := s.withPort [] es rs) hr hk

/-- One round: its request, its response, and a check that passes. -/
theorem State.moves_round (hr : s.hresp = none) (hk : s.round < 17) (hm : s.lm ≠ 0)
    (h : s.roundAcc * roundOperand s.lb s.roundAcc (s.round + 1) - p.q * s.lm = p.r) :
    State.Moves s (roundMoves [p]) (s.roundsPassed p.r 1) := by
  have hcheck := State.handles_rsavPass (s := s.roundRequested.receive p) hi rfl hc ho rfl h
  rw [State.roundRequested_passed] at hcheck
  exact .cons (State.handles_rsavRequest hi hp hc ho hr hk hm) (.cons (State.handles_hint p rfl) (.cons hcheck (.nil _)))

end

/-- Rounds whose checks all pass, at most up to round 17. -/
theorem State.moves_rounds {rd ra rb rm : RegField} (hi : (Instr.rsav rd ra rb rm).WellFormed) (ps : List HintResp) :
    ∀ {s : State} {p : HintResp}, s.phase = .exec → s.cmd = encode (.rsav rd ra rb rm) → s.op = .rsav → s.hresp = none →
      s.lm ≠ 0 → s.round + (p :: ps).length ≤ 17 → RoundsPass s.width s.lb s.lm s.roundAcc (s.round + 1) (p :: ps) →
      State.Moves s (roundMoves (p :: ps)) (s.roundsPassed (lastRemainder s.roundAcc (p :: ps)) (p :: ps).length) := by
  induction ps with
  | nil =>
    rintro s p hp hc ho hr hm hk ⟨hpass, -⟩
    exact State.moves_round hi hp hc ho hr hk hm ((check_iff _ _ _ _ _ _).mp hpass)
  | cons q ps ih =>
    intro s p hp hc ho hr hm hk ⟨hpass, hrest⟩
    simp only [List.length_cons] at hk
    have hfirst := State.moves_round hi hp hc ho hr (by omega) hm ((check_iff _ _ _ _ _ _).mp hpass)
    have hlater := ih (s := s.roundsPassed p.r 1) (p := q) rfl hc ho rfl hm
      (by simp only [State.roundsPassed_round, List.length_cons]; omega) (by rwa [State.roundsPassed_roundAcc])
    rw [State.roundsPassed_roundsPassed, Nat.add_comm 1] at hlater
    exact hfirst.append hlater

/-- Settles O38: after acceptance (O16) come 17 passed rounds and the completion with the accumulator (O37), and the polls among
them change nothing. -/
theorem rsavRunsSeventeenRounds : Obligations.RsavRunsSeventeenRounds := by
  intro rd ra rb rm s ps ms es hd ha hb hm hp hh hr hlen he hms hz hpass
  have hwf := rsav_wellFormed hd ha hb hm
  obtain ⟨u, haccept, hcmd, hop, hdst, hla, hlb, hlm, hexec, -, -, -, hcount, hround, hv, hwidth, -, -, hresp, -⟩ :=
    idleAcceptsCommand _ s hwf hp
  have hu : s.accept _ = u := Host.Outcome.next.inj ((exec_idle _ s hp).symm.trans haccept)
  have hacc : u.roundAcc = u.lb := if_pos hround
  rw [← hwidth, ← hlb rb hb rfl, ← hlm rm hm rfl] at hpass
  rw [← hlm rm hm rfl] at hz
  rw [← hla ra ha rfl, ← hlb rb hb rfl]
  obtain _ | ⟨p, ps⟩ := ps
  · cases hlen
  have hrounds := State.moves_rounds hwf ps hexec hcmd hop (hresp.trans hr) hz (by rw [hround, hlen]) (p := p)
    (by rwa [hacc, hround])
  rw [hlen, hacc] at hrounds
  have hfinish := State.handles_rsavFinish (s := u.roundsPassed (lastRemainder u.lb (p :: ps)) 17) hwf rfl hcmd hop rfl
    (Nat.le_add_left _ _)
  rw [State.roundsPassed_acc, State.roundsPassed_la] at hfinish
  have hmoves : State.Moves s (commandMoves (.rsav rd ra rb rm) (p :: ps)) _ :=
    .cons (hu ▸ State.handles_cmdWrite hwf hp) (hrounds.append (.cons hfinish (.nil _)))
  rw [← hms] at hmoves
  obtain ⟨rs, hrun⟩ := hmoves.run hh he
  exact ⟨_, hrun, by simp [hv, hdst, Instr.rd], rfl, by simp [hcount], rfl, rfl, rfl⟩

/-! ### The truncated exponentiation -/

/-- Correct hints pass their checks (44_reducer.md R184). -/
theorem RoundsCorrect.roundsPass (w : LimbWidth) {sig m : Value} (ps : List HintResp) :
    ∀ {acc : Value} {k : Nat}, RoundsCorrect sig m acc k ps → RoundsPass w sig m acc k ps := by
  induction ps with
  | nil => exact fun _ => trivial
  | cons p ps ih => exact fun ⟨hint, hrest⟩ => ⟨(check_iff _ _ _ _ _ _).mpr hint.identity, ih hrest⟩

/-- Under correct hints the rounds from `x_k` on end in `x_17` (45_rsa.md R207). -/
theorem RoundsCorrect.toNat_lastRemainder {sig m : Value} (ps : List HintResp) :
    ∀ {acc : Value} {k : Nat} {p : HintResp}, k + ps.length = 16 → acc.toNat = rsaSquares sig.toNat m.toNat k →
      RoundsCorrect sig m acc (k + 1) (p :: ps) →
      (lastRemainder acc (p :: ps)).toNat = rsaResult sig.toNat m.toNat := by
  induction ps with
  | nil =>
    rintro acc k p rfl hacc ⟨hint, -⟩
    exact hint.remainder.trans (by rw [truncProd, hacc]; rfl)
  | cons q ps ih =>
    intro acc k p hk hacc ⟨hint, hrest⟩
    rw [List.length_cons] at hk
    have hop : roundOperand sig acc (k + 1) = acc := if_neg (by change k + 1 ≠ 17; omega)
    have hsquare : p.r.toNat = rsaSquares sig.toNat m.toNat (k + 1) := by
      rw [hint.remainder, hop, truncProd, hacc]
      rfl
    exact ih (by omega) hsquare hrest

theorem rsaSquares_succ_lt (s : Nat) {m : Nat} (hm : 0 < m) (k : Nat) : rsaSquares s m (k + 1) < m := Nat.mod_lt _ hm

/-- Settles O39: correct hints pass, so O38 tells the run, whose last remainder is `x_17`. -/
theorem rsavComputesTruncatedPower : Obligations.RsavComputesTruncatedPower := by
  intro rd ra rb rm s ps ms es hd ha hb hm hp hh hr hlen he hms hcorrect
  obtain _ | ⟨p, ps⟩ := ps
  · cases hlen
  obtain ⟨⟨hm0, -, -⟩, -⟩ := id hcorrect
  have hpos := Nat.pos_of_ne_zero hm0
  have hz : s.v[rm.toNat] ≠ 0 := fun h => hm0 (h ▸ BitVec.toNat_zero)
  obtain ⟨t, hrun, hv, hidle, hcount, hmatched, herr, -⟩ :=
    rsavRunsSeventeenRounds rd ra rb rm s (p :: ps) ms es hd ha hb hm hp hh hr hlen he hms hz
      (hcorrect.roundsPass s.width)
  have hlast := RoundsCorrect.toNat_lastRemainder ps (k := 0) (by simpa using hlen) rfl hcorrect
  have hlt : rsaResult (s.v[rb.toNat]).toNat (s.v[rm.toNat]).toNat < (s.v[rm.toNat]).toNat := Nat.mod_lt _ hpos
  have hiff : t.matched = true ↔ rsaResult (s.v[rb.toNat]).toNat (s.v[rm.toNat]).toNat = (s.v[ra.toNat]).toNat := by
    rw [hmatched, decide_eq_true_iff, ← BitVec.toNat_inj, hlast]
  have herrMatched : t.err = if t.matched = true then .none else .sigMismatch := by
    rw [herr, hmatched]
    simp only [decide_eq_true_iff]
  refine ⟨t, hrun, hidle, hcount, ?_, hiff, ?_, ?_, fun k hk _ => ?_, hlt, fun hle => ?_⟩
  · simp only [hv, Vector.getElem_set_self, hlast]
  · rw [herrMatched]
    cases t.matched <;> simp
  · rw [herrMatched]
    cases t.matched <;> simp
  · obtain ⟨j, rfl⟩ := Nat.exists_eq_add_of_le' hk
    exact rsaSquares_succ_lt _ hpos j
  · rw [← Bool.not_eq_true, hiff]
    omega

/-! ### The true power -/

/-- Two factors of half the width do not reach `2^N` (45_rsa.md R208). The widths are variables, so that no power is computed. -/
theorem mul_lt_two_pow {x y n k : Nat} (hk : n + n = k) (hx : x < 2 ^ n) (hy : y < 2 ^ n) : x * y < 2 ^ k := by
  rw [← hk, Nat.pow_add]
  exact Nat.mul_lt_mul'' hx hy

theorem two_pow_mul_self_mod {n k : Nat} (hk : n + n = k) : 2 ^ n * 2 ^ n % 2 ^ k = 0 := by
  rw [← hk, Nat.pow_add, Nat.mod_self]

section
variable {s m : Nat} (hm : 0 < m) (hs : s < 2 ^ 1024) (hb : m ≤ 2 ^ 1024)
include hm hs hb

theorem rsaSquares_lt (k : Nat) : rsaSquares s m k < 2 ^ 1024 := by
  cases k with
  | zero => exact hs
  | succ k => exact (rsaSquares_succ_lt s hm k).trans_le hb

/-- Within the bounds nothing is truncated, and `k` squarings give `s^(2^k)` (45_rsa.md R208). -/
theorem rsaSquares_modEq (k : Nat) : rsaSquares s m k ≡ s ^ 2 ^ k [MOD m] := by
  induction k with
  | zero =>
    rw [Nat.pow_zero, Nat.pow_one]
    rfl
  | succ k ih =>
    have hlt := rsaSquares_lt hm hs hb k
    rw [rsaSquares, Nat.mod_eq_of_lt (mul_lt_two_pow rfl hlt hlt), Nat.pow_succ, Nat.mul_two, Nat.pow_add]
    exact (Nat.mod_modEq _ m).trans (ih.mul ih)

/-- `65537 = 2^16 + 1`: 16 squarings and one multiplication (45_rsa.md R208). -/
theorem rsaResult_eq_pow_mod : rsaResult s m = s ^ Config.rsaExponent % m := by
  have hexp : Config.rsaExponent = 2 ^ 16 + 1 := rfl
  rw [rsaResult, Nat.mod_eq_of_lt (mul_lt_two_pow rfl (rsaSquares_lt hm hs hb 16) hs), hexp, Nat.pow_succ]
  exact (rsaSquares_modEq hm hs hb 16).mul_right s

end

/-- No power of `x` is 0 modulo `x + 1`: the two are coprime. -/
theorem pow_mod_succ_ne_zero {x : Nat} (hx : x ≠ 0) (e : Nat) : x ^ e % (x + 1) ≠ 0 := by
  intro h
  have hco : Nat.Coprime (x ^ e) (x + 1) := (Nat.coprime_self_add_right.mpr (Nat.coprime_one_right x)).pow_left e
  exact hx (Nat.succ.inj (Nat.Coprime.eq_one_of_dvd hco.symm (Nat.dvd_of_mod_eq_zero h)))

section
variable {n : Nat} (hn : n + n = 2048)
include hn

/-- A signature of `2^(N/2)` is squared to 0 (45_rsa.md R208; vector T22). -/
theorem rsaSquares_two_pow (m k : Nat) : rsaSquares (2 ^ n) m (k + 1) = 0 := by
  induction k with
  | zero => rw [rsaSquares, rsaSquares, two_pow_mul_self_mod hn, Nat.zero_mod]
  | succ k ih => rw [rsaSquares, ih, Nat.zero_mul, Nat.zero_mod, Nat.zero_mod]

theorem rsaResult_two_pow (m : Nat) : rsaResult (2 ^ n) m = 0 := by
  rw [rsaResult, rsaSquares_two_pow hn m 15, Nat.zero_mul, Nat.zero_mod, Nat.zero_mod]

/-- T22, for any exponent: the truncated power is 0 and the true one is not. -/
theorem rsaResult_ne_pow_mod (e : Nat) : rsaResult (2 ^ n) (2 ^ n + 1) ≠ (2 ^ n) ^ e % (2 ^ n + 1) := by
  rw [rsaResult_two_pow hn]
  exact (pow_mod_succ_ne_zero (Nat.two_pow_pos n).ne' e).symm

end

/-- Settles O40: within the bounds `x_17` of O39 is the true power; T22 lies outside them. -/
theorem rsavMatchesValidSignature : Obligations.RsavMatchesValidSignature := by
  refine ⟨fun s m hm hs hb => ⟨fun k _ => ?_, ?_, rsaResult_eq_pow_mod hm hs hb⟩,
    ⟨2 ^ 1024, 2 ^ 1024 + 1, Nat.succ_pos _, by decide +kernel, by decide +kernel, rsaResult_ne_pow_mod rfl _⟩, ?_⟩
  · exact mul_lt_two_pow rfl (rsaSquares_lt hm hs hb k) (rsaSquares_lt hm hs hb k)
  · exact mul_lt_two_pow rfl (rsaSquares_lt hm hs hb 16) hs
  · intro rd ra rb rm s ps ms es hd ha hb hm hp hh hr hlen he hms hcorrect hsig hmod
    obtain ⟨t, hrun, hidle, -, -, hiff, -, -, -, hlt, -⟩ :=
      rsavComputesTruncatedPower rd ra rb rm s ps ms es hd ha hb hm hp hh hr hlen he hms hcorrect
    rw [rsaResult_eq_pow_mod (Nat.zero_lt_of_lt hlt) hsig hmod] at hiff
    exact ⟨t, hrun, hidle, hiff⟩

end Sys2Proof.Machine
end

section
/-!
PROOFS. The fatal state (60_exceptions.md R226 to R229): entry, what each input does there, and that only reset leaves it (O41 to O44).
-/

namespace Sys2Proof.Machine

/-- Settles O41: fatal entry is `halt`, but for the latches, and in HALTED nothing. -/
theorem fatalEntry : Obligations.FatalEntry := by
  refine fun s code => ⟨s.fatal_of_halted code, fun hp => ?_⟩
  rw [s.fatal_of_not_halted code hp]
  exact ⟨rfl, rfl, rfl, rfl, rfl, rfl, rfl, rfl, rfl, rfl⟩

/-! ### A step in the fatal state -/

/-- Of the moves a step can be, only reset changes more than the port in the fatal state (60_exceptions.md R227, R228). -/
theorem StepMove.withPort_of_halted {s t : State} (hm : StepMove s t) (hp : s.phase = .halted)
    (hr : ∀ es, s.events ≠ .reset :: es) : ∃ hs es rs, t = s.withPort hs es rs := by
  cases hm with
  | port hs es rs => exact ⟨hs, es, rs, rfl⟩
  | addressError hs es rs => exact ⟨hs, es, rs, State.fatal_of_halted _ _ hp⟩
  | writeVal _ _ hh => exact absurd hp hh
  | accept _ _ hi | illegalWord _ _ hi => cases hp.symm.trans hi
  | engine hx => cases hp.symm.trans hx
  | hint _ hw => cases hp.symm.trans hw
  | reset he => exact absurd he (hr _)

/-- Settles O43: the step changes the port alone. -/
theorem fatalStateSticky : Obligations.FatalStateSticky := by
  intro s t hp hr hstep
  obtain ⟨hs, es, rs, rfl⟩ := (step_move hstep).withPort_of_halted hp hr
  exact ⟨rfl, hp, rfl, rfl, rfl, rfl, rfl⟩

theorem step_fatal {s t : State} (hs : s.Fatal) (hr : ∀ es, s.events ≠ .reset :: es) (h : step s = .next t) : t.Fatal := by
  obtain ⟨-, hp, -⟩ := fatalStateSticky s t hs hr h
  exact hp

/-! ### The moves to come -/

section
variable {s t : State}

theorem State.acceptIllegal_events (s : State) (w : Word) : (s.acceptIllegal w).events = s.events := by
  unfold State.acceptIllegal
  split <;> simp

theorem State.hintResponse_events (s : State) (p : HintResp) : (s.hintResponse p).events = s.events := by
  unfold State.hintResponse
  split <;> rfl

theorem State.writeCmd_events {w : Word} (h : s.writeCmd w = .next t) : t.events = s.events := by
  obtain ⟨i, -, hx⟩ | ⟨-, rfl⟩ := State.writeCmd_cases h
  · obtain ⟨-, he, -⟩ := exec_port hx
    exact he
  · exact s.acceptIllegal_events w

theorem State.performHost_events {x : HostTxn} (h : s.performHost x = .next t) : t.events = s.events := by
  obtain ⟨d, rfl⟩ | ⟨d, rfl⟩ | rfl | rfl | ⟨a, d, -, -, -, rfl⟩ | ⟨w, -, hw⟩ := State.performHost_cases h
  · rfl
  · exact State.fatal_events _ _
  · exact State.fatal_events _ _
  · rfl
  · rfl
  · exact State.writeCmd_events hw

theorem State.issueHost_events {x : HostTxn} (h : s.issueHost x = .next t) : t.events = s.events := by
  obtain ⟨-, -, hx⟩ | rfl := State.issueHost_cases h
  · exact State.performHost_events hx
  · rfl

theorem State.releaseTurn_events (h : s.releaseTurn = .next t) : t.events = s.events := by
  obtain ⟨x, hs, -, -, hx⟩ | rfl := State.releaseTurn_cases h
  · exact (State.performHost_events hx).trans (s.setHeld_events hs)
  · rfl

theorem State.engineTurn_events (h : s.engineTurn = .next t) : t.events = s.events := by
  obtain rfl | ⟨-, hm⟩ := State.engineTurn_cases h
  · rfl
  · obtain ⟨-, -, -, he, -⟩ := hm.frame
    exact he

theorem State.ownTurn_events (h : s.ownTurn = .next t) : t.events = s.events := by
  obtain he | hr := s.ownTurn_cases
  · exact State.engineTurn_events (he ▸ h)
  · exact State.releaseTurn_events (hr ▸ h)

theorem State.handleEvent_events {e : Event} (h : s.handleEvent e = .next t) : t.events = s.events := by
  cases e with
  | host x => exact State.issueHost_events h
  | release => exact State.releaseTurn_events h
  | engine => exact State.engineTurn_events h
  | hint p =>
    cases h
    exact s.hintResponse_events p
  | reset =>
    cases h
    rfl

/-- A step uses up the first of the moves to come, and adds none. -/
theorem step_events (h : step s = .next t) : t.events = s.events.tail := by
  obtain ⟨he, ho⟩ | ⟨e, es, he, hx⟩ := step_cases h
  · rw [State.ownTurn_events ho, he, List.tail_nil]
  · rw [State.handleEvent_events hx, he, List.tail_cons]
    rfl

end

/-! ### Runs -/

/-- A run that answers begins with a step that answers. -/
theorem step_of_run_succ {n : Nat} {s t : State} (h : core.run (n + 1) s = .next t) :
    ∃ u, step s = .next u ∧ core.run n u = .next t := by
  cases hs : step s with
  | next u => exact ⟨u, rfl, (run_succ_of_step n hs).symm.trans h⟩
  | fault | refused =>
    have hcore : core.step s = _ := hs
    simp [Host.Core.run, hcore] at h

/-- Settles O44, by induction over the run: a step from the fatal state would stay there, and the rest of the run is clean. -/
theorem cleanEndMeansCleanRun : Obligations.CleanEndMeansCleanRun := by
  intro n
  induction n with
  | zero =>
    intro s t _ hrun ht k hk
    obtain rfl := Nat.le_zero.mp hk
    exact ⟨t, hrun, ht⟩
  | succ n ih =>
    intro s t hr hrun ht k hk
    obtain ⟨u, hstep, hrest⟩ := step_of_run_succ hrun
    have hru : Event.reset ∉ u.events := fun hmem => hr (List.mem_of_mem_tail (step_events hstep ▸ hmem))
    have hclean : CleanRun n u := ih u t hru hrest ht
    cases k with
    | zero =>
      obtain ⟨u', hu, hnot⟩ := hclean 0 n.zero_le
      cases hu
      exact ⟨s, rfl, fun hs => hnot (step_fatal hs (fun es he => hr (he ▸ List.mem_cons_self)) hstep)⟩
    | succ k =>
      rw [run_succ_of_step k hstep]
      exact hclean k (Nat.le_of_succ_le_succ hk)

/-! ### The inputs of the fatal state -/

/-- The block's own turn is the port's where the interlock lets the oldest waiting transaction through (log entry 4). -/
theorem State.ownTurn_of_free {s : State} {x : HostTxn} {hs : List HostTxn} (hh : s.held = x :: hs)
    (hi : s.interlocked x = false) : s.ownTurn = s.releaseTurn := by
  simp [State.ownTurn, hh, hi]

theorem State.valMapped_of_lt {s : State} {a : Nat} (ha : a < 8 * s.width.count) : s.valMapped a = true := decide_eq_true ha

/-- A read of a mapped `VAL` address, in every phase (20_memory.md R65). -/
theorem State.performHost_readVal_mapped (s : State) {a : Nat} (ha : a < 8 * s.width.count) :
    s.performHost (.readVal a) = .next (s.respond (.readVal a) (s.readVal a)) := by
  rw [State.performHost, State.hostReadVal, if_pos (State.valMapped_of_lt ha)]

section
variable {s : State} {x : HostTxn} (hp : s.phase = .halted)
include hp

/-- An unmapped read in the fatal state answers 0, and the answer is all it changes (60_exceptions.md R226, R227). -/
theorem State.performHost_unmapped_read_halted (h : s.Unmapped x) (hx : ∃ a, x = .readVal a ∨ x = .readCtrl a) :
    s.performHost x = .next (s.respond x 0) := by
  obtain ⟨-, ho⟩ | ⟨⟨_, _, _, hw⟩, -⟩ := State.performHost_unmapped h
  · rw [ho, State.fatal_of_halted (s.respond x 0) _ hp]
  · obtain ⟨a, rfl | rfl⟩ := hx <;> simp at hw

/-- An unmapped write in the fatal state changes nothing (60_exceptions.md R226, R227). -/
theorem State.performHost_unmapped_write_halted (h : s.Unmapped x) (hx : ∃ a d e, x = .writeVal a d ∨ x = .writeCtrl a e) :
    s.performHost x = .next s := by
  obtain ⟨⟨_, hr⟩, -⟩ | ⟨-, ho⟩ := State.performHost_unmapped h
  · obtain ⟨a, d, e, rfl | rfl⟩ := hx <;> simp at hr
  · rw [ho, s.fatal_of_halted _ hp]

/-- Every write of `VAL` is ignored in the fatal state, mapped or not (60_exceptions.md R227). -/
theorem State.performHost_writeVal_ignored (a : Nat) (d : BitVec 64) : s.performHost (.writeVal a d) = .next s := by
  obtain ha | ha := Nat.lt_or_ge a (8 * s.width.count)
  · rw [State.performHost, State.hostWriteVal, if_pos (State.valMapped_of_lt ha), if_pos hp]
  · exact State.performHost_unmapped_write_halted hp (.inl ⟨a, ha, .inr ⟨d, rfl⟩⟩) ⟨a, d, 0, .inl rfl⟩

end

/-- Settles O42: the port's lemmas with nothing interlocked, and the step lemma of the fatal state. -/
theorem fatalStateIgnoresWrites : Obligations.FatalStateIgnoresWrites := by
  intro s hp
  have hb : s.busy = false := State.not_busy (.inr hp)
  have hi : ∀ x, s.interlocked x = false := fun x => s.interlocked_of_not_busy x hb
  obtain ⟨hconfig, hstatus, hcmd, -⟩ := ctrlAccess s 0
  refine ⟨fun w => s.writeCmd_of_halted w hp, State.performHost_writeVal_ignored hp, fun a => s.performHost_readVal_mapped,
    hconfig, hstatus, hcmd, fun a ha => ?_, fun a ha => ?_, fun a d ha => ?_, fun p => ?_, hi, fun x hh => ?_,
    fun x hs hh => ⟨State.releaseTurn_of_free hh (hi x), State.ownTurn_of_free hh (hi x)⟩, fun es he => ?_,
    fun t hr hstep => step_fatal hp hr hstep⟩
  · exact State.performHost_unmapped_read_halted hp (.inl ⟨a, ha, .inl rfl⟩) ⟨a, .inl rfl⟩
  · exact State.performHost_unmapped_read_halted hp (.inr ⟨a, ha, .inl rfl⟩) ⟨a, .inr rfl⟩
  · exact State.performHost_unmapped_write_halted hp (.inr ⟨a, ha, .inr ⟨d, rfl⟩⟩) ⟨a, 0, d, .inr rfl⟩
  · exact s.hintResponse_discarded p (by simp [hp])
  · exact s.issueHost_of_free x hh hb
  · exact ⟨_, step_event s _ es he, rfl⟩

end Sys2Proof.Machine
end

section
/-!
PROOFS. The reset input in any phase (70_reset_and_hazards.md R260, R261; O7, O8).
-/

namespace Sys2Proof.Machine

/-- The reset input, as a step: it uses up its own move, and reset keeps the later ones. -/
theorem step_reset {s : State} {es : List Event} (he : s.events = .reset :: es) :
    step s = .next (s.setEvents es).applyReset := step_event s .reset es he

/-- Settles O7: O6 gives the values after reset, among them phase IDLE, in which O16 accepts. -/
theorem resetFromAnyState : Obligations.ResetFromAnyState := by
  intro s es he
  obtain ⟨-, hreg, hcmd, hstatus, -, -, hmatched, -, herr, hcount, -, hphase, hacc, hround, hreq, hresp⟩ :=
    resetValues s.width (s.setEvents es).applyReset (.inr ⟨s.setEvents es, rfl, rfl⟩)
  refine ⟨_, step_reset he, fun r => (hreg r).trans (zeroValue_eq_zero s.width), hcmd, hstatus, hphase, herr, hmatched, hcount,
    hacc, hround, hreq, hresp, rfl, fun i hi => ?_⟩
  obtain ⟨u, hu, hucmd, -, -, -, -, -, -, hbusy, -⟩ := idleAcceptsCommand i _ hi hphase
  exact ⟨u, (State.writeCmd_of_encode _ hi).trans hu, hbusy, hucmd⟩

/-- Settles O8: the reset state is in phase IDLE, where a response is discarded and the port's turn releases the oldest waiting
transaction (O46). -/
theorem resetReleasesWaiting : Obligations.ResetReleasesWaiting := by
  intro s x hs es hh he
  obtain ⟨-, hrelease, -⟩ := waitingAccessesKeepOrder
  let t := (s.setEvents (.release :: es)).applyReset
  have hidle : t.phase = .idle := rfl
  refine ⟨t, step_reset he, rfl, fun p => t.hintResponse_discarded p (by simp [hidle]), State.resetAt_reg s.width, hidle, hh, ?_⟩
  exact hrelease t x hs es hh rfl (State.not_busy (.inl hidle))

end Sys2Proof.Machine
end
